-- ==== Sys2Proof/Word.lean ====
section
/-! DEFINITION. The word types of the block (spec/00_scope.md R12): unsigned bit vectors whose bit 0 is the least
significant one. -/

namespace Sys2Proof

/-- `u8`: a seed byte, a data byte, a table entry, a field of the command word. -/
abbrev Byte := BitVec 8

/-- `u16`: a control register, an immediate, the data field of a response. -/
abbrev Half := BitVec 16

/-- `u32`: a command word, a response word, the output of one draw. -/
abbrev Word := BitVec 32

/-- `u64`: a generator state. -/
abbrev Dword := BitVec 64

end Sys2Proof
end

