-- ==== Sys2Proof/Config.lean ====
section
/-! DEFINITION. The five open parameters of the block (spec/00_scope.md R7, spec/10_state.md R39,
spec/92_eei_decisions.md "The open parameters together"). Each is an opaque constant: no proof can see a value of it,
so what is proved of the machine is proved for every value the spec allows (notes/assumptions/7.md). The default
instances, which the spec uses for its test vectors only, are in Machine/Primitives.lean and
Machine/ReferenceKdf.lean; the machine does not use them. -/

namespace Sys2Proof

/-- The free number behind `Config.seedMax`. -/
opaque Config.seedMaxFree : Nat

/-- SEED_MAX, the capacity of the seed buffer: any number with `1 <= SEED_MAX <= 65535` (R7, D8), and each such
number is reached by some value of the free number. -/
def Config.seedMax : Nat := Config.seedMaxFree % 65535 + 1

/-- The bytes DERIVE returns, as a function of its five arguments and the index of the byte (R120). That it is a
function gives totality and determinism; `Machine.derive` gives the length, the third property a model may assume. -/
opaque Config.deriveByte (key label salt : List Byte) (iterations outLen : Nat) (index : Nat) : Byte

/-- FASTPRNG's `step` (R124), a total function on 64-bit states. -/
opaque Config.prngStep : Dword → Dword

/-- FASTPRNG's `out32` (R124), the output of a draw as a function of the new state. -/
opaque Config.prngOut32 : Dword → Word

/-- SHUFFLE_SALT, the salt of the per-pad derivation (R7, D14). -/
opaque Config.shuffleSalt : List Byte

/-- PRNG_SALT, the salt of the selector derivation (R7, D14). -/
opaque Config.prngSalt : List Byte

end Sys2Proof
end

