-- ==== Sys2Proof/Syntax.lean ====
section
/-! DEFINITION. The ten commands (spec/30_encoding.md R93), the selector names (spec/10_state.md R21) and the
control register names (R29). -/

namespace Sys2Proof

/-- The four selector registers by their aliases, numbered 0 to 3 (R21). -/
inductive Sel where
  | senc
  | sdec
  | sx0
  | sx1
  deriving DecidableEq, Repr

/-- The five control and status registers, numbered 0 to 4 (R29). -/
inductive Csr where
  | status
  | numpads
  | qubits
  | seedlen
  | id
  deriving DecidableEq, Repr

/-- One constructor per row of the opcode table (R93). Which operands are legal is `Instr.wf`. -/
inductive Instr where
  /-- NOP, R200. -/
  | nop
  /-- SEEDB, append the seed byte `b`, R201. -/
  | seedb (b : Byte)
  /-- SEEDCLR, R202. -/
  | seedclr
  /-- RDCSR, read the control register `csr`, R203. -/
  | rdcsr (csr : Csr)
  /-- WRCSR, write `n` to the control register `csr`, R204. -/
  | wrcsr (csr : Csr) (n : Half)
  /-- INIT, build the context, R140 and R147. -/
  | init
  /-- MKSEL, seed the external selector slot `sel`, R161. -/
  | mksel (sel : Sel)
  /-- ENC, encrypt the byte `b` with the selector `sel`, R181. -/
  | enc (sel : Sel) (b : Byte)
  /-- DEC, decrypt the byte `b` with the selector `sel`, R182. -/
  | dec (sel : Sel) (b : Byte)
  /-- DESTROY, R205. -/
  | destroy
  deriving DecidableEq, Repr

end Sys2Proof
end

