-- ==== Sys2Proof/WellFormed.lean ====
section
/-! DEFINITION. Which terms of `Instr` are commands: the operand constraints of spec/30_encoding.md R93, R94 and
R95. A term that fails the check has no legal word. -/

namespace Sys2Proof

/-- RDCSR may name every register that exists (R93: `a <= 4`); WRCSR only NUMPADS, and QUBITS with bits 15:8 of the
immediate zero (R95 item 5); the selector operands are those of R94's table. -/
def Instr.wf : Instr → Bool
  | .nop => true
  | .seedb _ => true
  | .seedclr => true
  | .rdcsr _ => true
  | .wrcsr .numpads _ => true
  | .wrcsr .qubits n => n.extractLsb' 8 8 == 0#8
  | .wrcsr .status _ => false
  | .wrcsr .seedlen _ => false
  | .wrcsr .id _ => false
  | .init => true
  | .mksel s => s == .sx0 || s == .sx1
  | .enc s _ => s != .sdec
  | .dec s _ => s != .senc
  | .destroy => true

end Sys2Proof
end

