-- ==== Sys2Proof/Decode.lean ====
section
/-! DEFINITION. The command word, format C (spec/30_encoding.md R90 to R96, R102): decoding, total on every word and
answering `none` for an illegal one, and encoding, written from the same table. -/

namespace Sys2Proof

/-- The `op` field, bits 31:24 (R91). -/
def opField (w : Word) : Byte := w.extractLsb' 24 8

/-- The `a` field, bits 23:16 (R91). -/
def aField (w : Word) : Byte := w.extractLsb' 16 8

/-- The `imm` field, bits 15:0 (R91). -/
def immField (w : Word) : Half := w.extractLsb' 0 16

/-- Bits 7:0 of an immediate, the operand `imm8` (R92). -/
def immLow (imm : Half) : Byte := imm.extractLsb' 0 8

/-- Bits 15:8 of an immediate, which a command with an `imm8` operand requires zero (R92). -/
def immHigh (imm : Half) : Byte := imm.extractLsb' 8 8

/-- A command word from its three fields (R91). -/
def commandWord (op a : Byte) (imm : Half) : Word := op ++ a ++ imm

/-- A selector's number (R21). -/
def selNumber : Sel → Byte
  | .senc => 0#8
  | .sdec => 1#8
  | .sx0 => 2#8
  | .sx1 => 3#8

/-- A control register's number (R29). -/
def csrNumber : Csr → Byte
  | .status => 0#8
  | .numpads => 1#8
  | .qubits => 2#8
  | .seedlen => 3#8
  | .id => 4#8

/-- The selector an `a` field names: `a[1:0]`, with `a[7:2]` required zero (R92). -/
def selOf (a : Byte) : Option Sel :=
  if a = 0#8 then some .senc
  else if a = 1#8 then some .sdec
  else if a = 2#8 then some .sx0
  else if a = 3#8 then some .sx1
  else none

/-- The control register an `a` field names: 0 to 4 (R92). -/
def csrOf (a : Byte) : Option Csr :=
  if a = 0#8 then some .status
  else if a = 1#8 then some .numpads
  else if a = 2#8 then some .qubits
  else if a = 3#8 then some .seedlen
  else if a = 4#8 then some .id
  else none

/-- The immediate that carries the byte `b` (R92: `imm[7:0]`, with `imm[15:8]` zero). -/
def immOfByte (b : Byte) : Half := 0#8 ++ b

/-- The command of a row with no operand: `a` and `imm` must be zero (R95 item 2). -/
def decodePlain (i : Instr) (a : Byte) (imm : Half) : Option Instr :=
  if a = 0#8 ∧ imm = 0#16 then some i else none

/-- SEEDB: `a = 0` and `imm[15:8] = 0` (R95 item 3). -/
def decodeSeedb (a : Byte) (imm : Half) : Option Instr :=
  if a = 0#8 ∧ immHigh imm = 0#8 then some (.seedb (immLow imm)) else none

/-- RDCSR: `a <= 4` and `imm = 0` (R95 item 4). -/
def decodeRdcsr (a : Byte) (imm : Half) : Option Instr :=
  if imm = 0#16 then (csrOf a).map .rdcsr else none

/-- WRCSR: `a = 1`, or `a = 2` with `imm[15:8] = 0` (R95 item 5). -/
def decodeWrcsr (a : Byte) (imm : Half) : Option Instr :=
  if a = 1#8 then some (.wrcsr .numpads imm)
  else if a = 2#8 ∧ immHigh imm = 0#8 then some (.wrcsr .qubits imm)
  else none

/-- MKSEL: `a` is 2 or 3 and `imm = 0` (R95 item 6). -/
def decodeMksel (a : Byte) (imm : Half) : Option Instr :=
  match selOf a with
  | none => none
  | some s => if (s = .sx0 ∨ s = .sx1) ∧ imm = 0#16 then some (.mksel s) else none

/-- ENC: `a` in 0, 2, 3 and `imm[15:8] = 0` (R95 item 7). -/
def decodeEnc (a : Byte) (imm : Half) : Option Instr :=
  match selOf a with
  | none => none
  | some s => if s ≠ .sdec ∧ immHigh imm = 0#8 then some (.enc s (immLow imm)) else none

/-- DEC: `a` in 1, 2, 3 and `imm[15:8] = 0` (R95 item 8). -/
def decodeDec (a : Byte) (imm : Half) : Option Instr :=
  match selOf a with
  | none => none
  | some s => if s ≠ .senc ∧ immHigh imm = 0#8 then some (.dec s (immLow imm)) else none

/-- R102: take `op`, then check the one row it selects; every other word is illegal. No state is consulted. -/
def decodeFields (op a : Byte) (imm : Half) : Option Instr :=
  if op = 0x00#8 then decodePlain .nop a imm
  else if op = 0x01#8 then decodeSeedb a imm
  else if op = 0x02#8 then decodePlain .seedclr a imm
  else if op = 0x03#8 then decodeRdcsr a imm
  else if op = 0x04#8 then decodeWrcsr a imm
  else if op = 0x10#8 then decodePlain .init a imm
  else if op = 0x11#8 then decodeMksel a imm
  else if op = 0x20#8 then decodeEnc a imm
  else if op = 0x21#8 then decodeDec a imm
  else if op = 0x3F#8 then decodePlain .destroy a imm
  else none

/-- The command a word is, or `none` for an illegal word (R95, R102). -/
def decode (w : Word) : Option Instr := decodeFields (opField w) (aField w) (immField w)

/-- The opcode byte of each command (R93). -/
def opcodeOf : Instr → Byte
  | .nop => 0x00#8
  | .seedb _ => 0x01#8
  | .seedclr => 0x02#8
  | .rdcsr _ => 0x03#8
  | .wrcsr _ _ => 0x04#8
  | .init => 0x10#8
  | .mksel _ => 0x11#8
  | .enc _ _ => 0x20#8
  | .dec _ _ => 0x21#8
  | .destroy => 0x3F#8

/-- The `a` field of each command: its register operand, or zero (R91). -/
def aOf : Instr → Byte
  | .nop => 0#8
  | .seedb _ => 0#8
  | .seedclr => 0#8
  | .rdcsr csr => csrNumber csr
  | .wrcsr csr _ => csrNumber csr
  | .init => 0#8
  | .mksel s => selNumber s
  | .enc s _ => selNumber s
  | .dec s _ => selNumber s
  | .destroy => 0#8

/-- The `imm` field of each command: its immediate operand, or zero (R91). -/
def immOf : Instr → Half
  | .nop => 0#16
  | .seedb b => immOfByte b
  | .seedclr => 0#16
  | .rdcsr _ => 0#16
  | .wrcsr _ n => n
  | .init => 0#16
  | .mksel _ => 0#16
  | .enc _ b => immOfByte b
  | .dec _ b => immOfByte b
  | .destroy => 0#16

/-- The word of a command (R93, R99). Of a term that is not well formed it is an illegal word. -/
def encode (i : Instr) : Word := commandWord (opcodeOf i) (aOf i) (immOf i)

/-- The instruction the decoder reads from the low `nbits` bits of `w`, the bits above being zero. Every command is
one 32-bit word (R90), and the port carries it as a number, not as bytes (spec/20_memory.md R65). -/
def decodeTableWord (nbits w : Nat) : Option Instr := decode (BitVec.ofNat 32 (w % 2 ^ nbits))

end Sys2Proof
end

