-- ==== Sys2Proof/Machine/State.lean ====
section
/-! DEFINITION. The state of the block, component by component as spec/10_state.md R20 lists it, with the host's two
ports beside it as plain data, and the state after reset (R37, spec/70_reset_and_hazards.md R300). -/

namespace Sys2Proof.Machine

/-- PHASE, one bit (R26): EMPTY holds no context, ACTIVE holds one. -/
inductive Phase where
  | empty
  | active
  deriving DecidableEq, Repr

/-- What the host may do next (spec/70_reset_and_hazards.md R318): present a command word, any of the 2^32 values, or
assert reset. -/
inductive HostEvent where
  | word (w : Word)
  | reset
  deriving DecidableEq, Repr

/-- The content of a selector register that is valid: one FASTPRNG state (R21) and, beside it, the two ghost values
of R35, which no hardware holds and no command reads (notes/assumptions/5.md). -/
structure Stream where
  /-- `S[s]`, the generator state. -/
  cur : Dword
  /-- Ghost `w0[s]`, the word the register was last seeded with. -/
  w0 : Dword
  /-- Ghost `n[s]`, the number of draws taken since. -/
  draws : Nat
  deriving DecidableEq, Repr

/-- The whole state. A selector register with its valid flag is one `Option`: `none` is `V[s] = 0`, and then the
register holds no value (R22, notes/assumptions/4.md). The seed buffer is the list of its valid bytes, whose length
is SEEDLEN (R24, notes/assumptions/6.md). Pad memory is a list of cells, strictly rising, an unlisted address having
no value (spec/20_memory.md R76, notes/assumptions/8.md). -/
structure State where
  /-- `S[0]`, `V[0]`: the context's encryptSelector. -/
  senc : Option Stream
  /-- `S[1]`, `V[1]`: the context's decryptSelector. -/
  sdec : Option Stream
  /-- `S[2]`, `V[2]`: external selector slot 0. -/
  sx0 : Option Stream
  /-- `S[3]`, `V[3]`: external selector slot 1. -/
  sx1 : Option Stream
  /-- `SEED[0..SEEDLEN)`, the first byte loaded first. -/
  seed : List Byte
  /-- Pad memory, keyed by the 25-bit address of spec/20_memory.md R61. -/
  padMem : List Host.Cell
  /-- PHASE (R26). -/
  phase : Phase
  /-- ERR, the code of the most recent fault, 0 for none (R30). -/
  err : BitVec 4
  /-- NUMPADS, CSR 1 (R31). -/
  numPads : Half
  /-- QUBITS, CSR 2 (R32). -/
  qubits : Byte
  /-- The model's own: what the host will present, next event first (notes/assumptions/1.md). -/
  inbox : List HostEvent
  /-- The model's own: the response words returned so far, oldest first (notes/assumptions/3.md). -/
  responses : List Word
  deriving DecidableEq, Repr

/-- Why the model can stop. Both reasons lie in states no run reaches; the spec's own faults are responses, not
stops (spec/60_exceptions.md R260, R262). -/
inductive Fault where
  /-- Raised by ENC and DEC where the pad memory byte they read has no value. Safe: the model stops where hardware
  would return some byte, and no run reaches it (spec/20_memory.md R76). -/
  | padByteWithoutValue (addr : Nat)
  /-- Raised by ENC and DEC while ACTIVE with NUMPADS zero, where `next` is not defined (R164: "requires ...
  NUMPADS >= 1"). Safe: no run reaches it (spec/10_state.md R36). -/
  | modulusZero
  deriving DecidableEq, Repr

/-- Why the model can decline an instruction: never, since every command has its meaning. -/
inductive Refusal where
  /-- Raised by `exec` alone for an instruction with no meaning yet; no arm does. Safe. -/
  | notModelled (mnemonic : String)
  deriving DecidableEq, Repr

/-- The outcome type of a step of this machine. -/
abbrev Result := Host.Outcome State Fault Refusal

/-- The machine right after reset (R37): EMPTY, no selector valid, no seed, no fault, NUMPADS and QUBITS zero, pad
memory without value; the host has presented nothing and nothing has been returned. -/
def State.reset : State where
  senc := none
  sdec := none
  sx0 := none
  sx1 := none
  seed := []
  padMem := []
  phase := .empty
  err := 0#4
  numPads := 0#16
  qubits := 0#8
  inbox := []
  responses := []

end Sys2Proof.Machine
end

