-- ==== Sys2Proof/Machine/Flags.lean ====
section
/-! DEFINITION. The status bits (spec/10_state.md R28, R30), the fault codes (spec/60_exceptions.md R261) and the
cause mask of ConfigurationError (R263, spec/30_encoding.md R98). The block has no arithmetic condition codes. -/

namespace Sys2Proof.Machine

/-- The six faults (R261). DesynchronizationFailure has no code, because it is never detected (R270). -/
inductive FaultCode where
  | configurationError
  | unsupportedWidth
  | illegalCommand
  | stateError
  | seedOverflow
  | selectorInvalid
  deriving DecidableEq, Repr

/-- The code of each fault (R261). -/
def faultNumber : FaultCode → BitVec 4
  | .configurationError => 1#4
  | .unsupportedWidth => 2#4
  | .illegalCommand => 3#4
  | .stateError => 4#4
  | .seedOverflow => 5#4
  | .selectorInvalid => 6#4

/-- A condition as one bit. -/
def bit (c : Bool) : BitVec 1 := if c then 1#1 else 0#1

/-- PHASE as its bit: EMPTY 0, ACTIVE 1 (R26). -/
def phaseBit : Phase → BitVec 1
  | .empty => 0#1
  | .active => 1#1

/-- STATUS (R30): PHASE in bit 0, V0 to V3 in bits 4 to 7, ERR in bits 11:8, every other bit zero. -/
def statusWord (s : State) : Half :=
  0#4 ++ s.err ++ bit s.sx1.isSome ++ bit s.sx0.isSome ++ bit s.sdec.isSome ++ bit s.senc.isSome
    ++ 0#3 ++ phaseBit s.phase

/-- The content of ID, CSR 4 (R34): the supported width 8 and the version 7. -/
def idValue : Half := 0x0807#16

/-- The info of a StateError: PHASE in bit 0 (R98, R266). -/
def phaseInfo (s : State) : Half := 0#15 ++ phaseBit s.phase

/-- The mask of every cause of ConfigurationError that INIT finds: bit 0 the seed empty, bit 1 NUMPADS zero, bit 2
QUBITS zero (R98, R263, spec/41_pad_generator.md R141). -/
def causeMask (s : State) : Half :=
  0#13 ++ bit (s.qubits == 0#8) ++ bit (s.numPads == 0#16) ++ bit s.seed.isEmpty

end Sys2Proof.Machine
end

