-- ==== Sys2Proof/Machine/Operands.lean ====
section
/-! DEFINITION. Reading and writing the operands a command names: selector registers with their valid flags
(spec/10_state.md R21, R22), control registers (R29), and the seed buffer (R24, spec/20_memory.md R63). -/

namespace Sys2Proof.Machine

/-- The content of a selector register, `none` where `V[s] = 0` (R22). -/
def selSlot (s : State) : Sel → Option Stream
  | .senc => s.senc
  | .sdec => s.sdec
  | .sx0 => s.sx0
  | .sx1 => s.sx1

/-- The valid flag `V[s]` (R22). -/
def selValid (s : State) (x : Sel) : Bool := (selSlot s x).isSome

/-- `S[s] <- v`: write a selector register and set its valid flag (spec/00_scope.md R15). -/
def setSel (s : State) (x : Sel) (v : Stream) : State :=
  match x with
  | .senc => { s with senc := some v }
  | .sdec => { s with sdec := some v }
  | .sx0 => { s with sx0 := some v }
  | .sx1 => { s with sx1 := some v }

/-- The info of a SelectorInvalid: the selector number (spec/30_encoding.md R98). -/
def selInfo (x : Sel) : Half := 0#8 ++ selNumber x

/-- SEEDLEN as CSR 3 reads it (R33). -/
def seedLen (s : State) : Half := BitVec.ofNat 16 s.seed.length

/-- `SEED[k]`: zero at and above SEEDLEN (R24). -/
def seedByte (s : State) (k : Nat) : Byte := s.seed.getD k 0#8

/-- The content of a control register, zero-extended to 16 bits (R29 to R34). -/
def csrRead (s : State) : Csr → Half
  | .status => statusWord s
  | .numpads => s.numPads
  | .qubits => 0#8 ++ s.qubits
  | .seedlen => seedLen s
  | .id => idValue

/-- Write a control register: NUMPADS takes the immediate, QUBITS its low byte (spec/44_control.md R204). The other
three are read-only and keep their content; no legal word writes them (spec/30_encoding.md R95 item 5). -/
def csrWrite (s : State) (csr : Csr) (n : Half) : State :=
  match csr with
  | .status => s
  | .numpads => { s with numPads := n }
  | .qubits => { s with qubits := immLow n }
  | .seedlen => s
  | .id => s

/-- Append one byte to the seed buffer, `SEED[SEEDLEN] <- B; SEEDLEN <- SEEDLEN + 1` (spec/20_memory.md R63). -/
def seedAppend (s : State) (b : Byte) : State := { s with seed := s.seed ++ [b] }

/-- Empty the seed buffer, every byte zero and SEEDLEN zero (spec/44_control.md R202). -/
def seedClear (s : State) : State := { s with seed := [] }

end Sys2Proof.Machine
end

