-- ==== Sys2Proof/Machine/Ops.lean ====
section
/-! DEFINITION. The shared operations: pad memory (spec/20_memory.md R61, R62), the response word
(spec/30_encoding.md R97), ending a command well (`respond`) and ending it in a fault (`raise`,
spec/60_exceptions.md R262), and the reset of the block (spec/70_reset_and_hazards.md R300).

Raising a fault is this block's whole exception mechanism. There is no return from one: "There is no return
instruction because there is nothing to return from" (R273); the next command is executed normally. -/

namespace Sys2Proof.Machine

/-- Which of a pad's two tables an access is to: address bit 24 (R61). -/
inductive Dir where
  | fwd
  | inv
  deriving DecidableEq, Repr

/-- Address bit 24: 0 the forward table, 1 the inverse table (R61). -/
def dirBit : Dir → BitVec 1
  | .fwd => 0#1
  | .inv => 1#1

/-- `PadAddr(dir, p, x)`, 25 bits (R61). -/
def padAddr (d : Dir) (p : Half) (x : Byte) : BitVec 25 := dirBit d ++ p ++ x

/-- The byte a list of cells holds at an address; an unlisted address has no value (R76). -/
def cellRead : List Host.Cell → Nat → Option Byte
  | [], _ => none
  | c :: m, a => if c.1 = a then some c.2 else cellRead m a

/-- Store one byte, keeping the addresses strictly rising. -/
def cellWrite : List Host.Cell → Nat → Byte → List Host.Cell
  | [], a, v => [(a, v)]
  | c :: m, a, v =>
    if a < c.1 then (a, v) :: c :: m
    else if c.1 = a then (a, v) :: m
    else c :: cellWrite m a v

/-- The canonical form of pad memory: addresses strictly rising and inside the 2^25 bytes of R61. No entry can equal
what an unlisted address reads as, because that is no value. -/
abbrev Memory.wf (m : List Host.Cell) : Prop :=
  m.Pairwise (fun c d => c.1 < d.1) ∧ ∀ c ∈ m, c.1 < 2 ^ 25

/-- `MemRead(addr, 1)` (spec/00_scope.md R15). -/
def memRead (s : State) (a : BitVec 25) : Option Byte := cellRead s.padMem a.toNat

/-- A sequence of `MemWrite(addr, 1, v)`, in order (spec/00_scope.md R15). -/
def cellsWrite (m : List Host.Cell) (ws : List (BitVec 25 × Byte)) : List Host.Cell :=
  ws.foldl (fun acc w => cellWrite acc w.1.toNat w.2) m

/-- The response word (R97): the code in bits 31:28, zero in 27:16, the data in 15:0. -/
def responseWord (code : BitVec 4) (data : Half) : Word := code ++ 0#12 ++ data

/-- The code of a response word (R97). -/
def responseCode (w : Word) : BitVec 4 := w.extractLsb' 28 4

/-- The data of a response word (R97). -/
def responseData (w : Word) : Half := w.extractLsb' 0 16

/-- The byte a response of ENC or DEC carries, `data[7:0]` (R97, R100). -/
def responseByte (w : Word) : Byte := w.extractLsb' 0 8

/-- Return a response word to the host. -/
def returnWord (w : Word) (s : State) : State := { s with responses := s.responses ++ [w] }

/-- `respond(data)`: end the command successfully (spec/00_scope.md R15). -/
def respond (data : Half) (s : State) : State := returnWord (responseWord 0#4 data) s

/-- `raise <Fault>(info)`: the response carries code and info, `STATUS.ERR` takes the code, and everything else is
exactly as before the command (spec/60_exceptions.md R262). -/
def raise (f : FaultCode) (info : Half) (s : State) : State :=
  returnWord (responseWord (faultNumber f) info) { s with err := faultNumber f }

/-- The answer to an illegal word, `info = 0` (spec/60_exceptions.md R265). -/
def raiseIllegal (s : State) : State := raise .illegalCommand 0#16 s

/-- A command's meaning, for the terms that are commands; a term that is not well formed has only illegal words, and
an illegal word raises IllegalCommand before any state is looked at (R269, notes/assumptions/11.md). -/
def ifLegal (i : Instr) (s : State) (meaning : Result) : Result :=
  if i.wf then meaning else .next (raiseIllegal s)

/-- The block put into the reset state of spec/10_state.md R37. What the host has still to present and what it has
been given are not state of the block and stay. -/
def resetBlock (s : State) : State :=
  { State.reset with inbox := s.inbox, responses := s.responses }

end Sys2Proof.Machine
end

