-- ==== Sys2Proof/Machine/Primitives.lean ====
section
/-! DEFINITION. The two leaf primitives, DERIVE and FASTPRNG, and the arithmetic around them
(spec/40_primitives.md). The shuffle and the draw are written over an arbitrary `step` and `out32` (R124), so that
the machine's open generator and the default one of R126 are two instances of one text. -/

namespace Sys2Proof.Machine

/-- KDF_ITERS (spec/00_scope.md R7). -/
def kdfIters : Nat := 128

/-- KDF_OUTLEN (spec/00_scope.md R7). -/
def kdfOutLen : Nat := 8

/-- DERIVE (R120): total and deterministic, and the result has `outLen` bytes; nothing else is assumed of it. -/
def derive (key label salt : List Byte) (iterations outLen : Nat) : List Byte :=
  (List.range outLen).map (Config.deriveByte key label salt iterations outLen)

/-- The little-endian value of a byte string, `b[0] + 2^8 b[1] + ...` (spec/00_scope.md R13). -/
def leNat (b : List Byte) : Nat := b.foldr (fun x acc => x.toNat + 256 * acc) 0

/-- `le64`, the block's one multi-byte conversion (spec/20_memory.md R65). The spec gives it for 8 bytes, the only length
the block uses; a longer string's value is taken modulo 2^64 (DESIGN CHOICE, notes/assumptions/22.md). -/
def le64 (b : List Byte) : Dword := BitVec.ofNat 64 (leNat b)

/-- `SeedWord(seed, label, salt)` (R122). -/
def seedWord (seed label salt : List Byte) : Dword := le64 (derive seed label salt kdfIters kdfOutLen)

/-- The decimal digits of `i` in ASCII, most significant first, with enough fuel. -/
def decDigits : Nat → Nat → List Byte
  | 0, _ => []
  | fuel + 1, i =>
    if i < 10 then [BitVec.ofNat 8 (48 + i)]
    else decDigits fuel (i / 10) ++ [BitVec.ofNat 8 (48 + i % 10)]

/-- `dec(i)`: the shortest decimal numeral of `i` in ASCII (spec/00_scope.md R13). -/
def dec (i : Nat) : List Byte := decDigits (i + 1) i

/-- `Draw(x) = (x', out32(x'))` with `x' = step(x)` (R124): the output is computed from the new state. -/
def draw (step : Dword → Dword) (out32 : Dword → Word) (x : Dword) : Dword × Word :=
  (step x, out32 (step x))

/-- The default FASTPRNG's step, xorshift64 with the shifts 13, 7, 17 (R126). The machine does not use it
(notes/assumptions/7.md). -/
def xorshiftStep (x : Dword) : Dword :=
  let x1 := x ^^^ (x <<< 13)
  let x2 := x1 ^^^ (x1 >>> 7)
  x2 ^^^ (x2 <<< 17)

/-- The default FASTPRNG's output, the high half of the new state (R126). -/
def xorshiftOut (x : Dword) : Word := x.extractLsb' 32 32

end Sys2Proof.Machine
end

