-- ==== Sys2Proof/Machine/Selector.lean ====
section
/-! DEFINITION. The keyed selector stream, `next` and MKSEL (spec/42_selector_stream.md). -/

namespace Sys2Proof.Machine

/-- The 27 ASCII bytes of "PERMUTATION_MATRIX_SELECTOR" (R160). -/
def selectorLabel : List Byte :=
  [0x50#8, 0x45#8, 0x52#8, 0x4D#8, 0x55#8, 0x54#8, 0x41#8, 0x54#8, 0x49#8, 0x4F#8, 0x4E#8, 0x5F#8, 0x4D#8, 0x41#8,
   0x54#8, 0x52#8, 0x49#8, 0x58#8, 0x5F#8, 0x53#8, 0x45#8, 0x4C#8, 0x45#8, 0x43#8, 0x54#8, 0x4F#8, 0x52#8]

/-- `SelWord(seed)` (R160). -/
def selWord (seed : List Byte) : Dword := seedWord seed selectorLabel Config.prngSalt

/-- A register just seeded with `w`: the state is the word itself, no draw taken (spec/40_primitives.md R124,
spec/10_state.md R35). -/
def freshStream (w : Dword) : Stream := { cur := w, w0 := w, draws := 0 }

/-- A register advanced by exactly one draw (R164). -/
def advance (st : Stream) : Stream :=
  { st with cur := (draw Config.prngStep Config.prngOut32 st.cur).1, draws := st.draws + 1 }

/-- The pad index of the draw a register takes next: the 32-bit output modulo NUMPADS (R164). -/
def drawIndex (numPads : Half) (st : Stream) : Half :=
  BitVec.ofNat 16 ((draw Config.prngStep Config.prngOut32 st.cur).2.toNat % numPads.toNat)

/-- MKSEL (R161, R162): in either phase, seed an external slot from the seed buffer; ConfigurationError with info 1
where the buffer is empty. -/
def execMksel (x : Sel) (s : State) : Result :=
  ifLegal (.mksel x) s
    (if s.seed = [] then .next (raise .configurationError 1#16 s)
     else .next (respond 0#16 (setSel s x (freshStream (selWord s.seed)))))

end Sys2Proof.Machine
end

