-- ==== Sys2Proof/Machine/Cipher.lean ====
section
/-! DEFINITION. The substitution cipher engine, ENC and DEC (spec/43_cipher_engine.md). -/

namespace Sys2Proof.Machine

/-- The address ENC or DEC reads for a data byte: the table direction, the index of the register's next draw, the
byte (spec/20_memory.md R62). -/
def cipherAddr (d : Dir) (s : State) (st : Stream) (b : Byte) : BitVec 25 :=
  padAddr d (drawIndex s.numPads st) b

/-- One draw and one table lookup, indivisible (R181, R182, R184, spec/20_memory.md R72): StateError while EMPTY,
SelectorInvalid for a register not valid, otherwise the register takes one draw and the response is the table entry.
The two stops are of states no run reaches (notes/assumptions/8.md, notes/assumptions/10.md). -/
def substitute (d : Dir) (x : Sel) (b : Byte) (s : State) : Result :=
  if s.phase = .empty then .next (raise .stateError (phaseInfo s) s)
  else
    match selSlot s x with
    | none => .next (raise .selectorInvalid (selInfo x) s)
    | some st =>
      if s.numPads = 0#16 then .fault .modulusZero
      else
        match memRead s (cipherAddr d s st b) with
        | none => .fault (.padByteWithoutValue (cipherAddr d s st b).toNat)
        | some c => .next (respond (0#8 ++ c) (setSel s x (advance st)))

/-- ENC (R181): the forward table. -/
def execEnc (x : Sel) (b : Byte) (s : State) : Result := ifLegal (.enc x b) s (substitute .fwd x b s)

/-- DEC (R182): the inverse table. -/
def execDec (x : Sel) (b : Byte) (s : State) : Result := ifLegal (.dec x b) s (substitute .inv x b s)

end Sys2Proof.Machine
end

