-- ==== Sys2Proof/Machine/Control.lean ====
section
/-! DEFINITION. The control commands NOP, SEEDB, SEEDCLR, RDCSR, WRCSR, DESTROY (spec/44_control.md). -/

namespace Sys2Proof.Machine

/-- NOP (R200). -/
def execNop (s : State) : Result := .next (respond 0#16 s)

/-- SEEDB (R201): SeedOverflow where the buffer is full, the byte dropped; otherwise append. -/
def execSeedb (b : Byte) (s : State) : Result :=
  if s.seed.length = Config.seedMax then .next (raise .seedOverflow (seedLen s) s)
  else .next (respond 0#16 (seedAppend s b))

/-- SEEDCLR (R202). -/
def execSeedclr (s : State) : Result := .next (respond 0#16 (seedClear s))

/-- RDCSR (R203): no state is written, and reading STATUS does not clear ERR. -/
def execRdcsr (csr : Csr) (s : State) : Result :=
  ifLegal (.rdcsr csr) s (.next (respond (csrRead s csr) s))

/-- WRCSR (R204): StateError while a context is active, otherwise the one register is written. -/
def execWrcsr (csr : Csr) (n : Half) (s : State) : Result :=
  ifLegal (.wrcsr csr n) s
    (if s.phase = .active then .next (raise .stateError (phaseInfo s) s)
     else .next (respond 0#16 (csrWrite s csr n)))

/-- DESTROY (R205): the reset state, in either phase; never faults. -/
def execDestroy (s : State) : Result := .next (respond 0#16 (resetBlock s))

end Sys2Proof.Machine
end

