-- ==== Sys2Proof/Machine/PadGenerator.lean ====
section
/-! DEFINITION. The pad generator and INIT (spec/41_pad_generator.md). -/

namespace Sys2Proof.Machine

/-- A permutation table: 256 byte entries (R145, spec/20_memory.md R61). -/
abbrev Table := Vector Byte 256

/-- The one supported qubit width (spec/00_scope.md R7). -/
def supportedWidth : Byte := 8#8

/-- `PadLabel(i)`, the bytes of "QPP_" and the decimal numeral of `i` (R143). -/
def padLabel (i : Nat) : List Byte := [0x51#8, 0x50#8, 0x50#8, 0x5F#8] ++ dec i

/-- `PadWord(seed, i)` (R144). -/
def padWord (seed : List Byte) (i : Nat) : Dword := seedWord seed (padLabel i) Config.shuffleSalt

/-- The identity table the shuffle starts from (R145). -/
def identityTable : Table := Vector.ofFn fun x => BitVec.ofNat 8 x.val

/-- The entry of a table at a byte index. -/
def entry (t : Table) (x : Byte) : Byte := t[x.toNat]'x.isLt

/-- The iterations `j, j - 1, ..., 1` of the shuffle from the generator state `st`: one draw each, `r = o mod (j + 1)`,
swap `T[j]` and `T[r]`; none for `j = 0` (R145). -/
def shuffleLoop (step : Dword → Dword) (out32 : Dword → Word) : (j : Nat) → j < 256 → Dword → Table → Table
  | 0, _, _, t => t
  | j + 1, h, st, t =>
    shuffleLoop step out32 j (Nat.lt_of_succ_lt h) (draw step out32 st).1
      (t.swap (j + 1) ((draw step out32 st).2.toNat % (j + 2)) h
        (Nat.lt_of_lt_of_le (Nat.mod_lt _ (Nat.succ_pos _)) h))

/-- `Shuffle(w)` (R145) with a given generator. -/
def shuffleWith (step : Dword → Dword) (out32 : Dword → Word) (w : Dword) : Table :=
  shuffleLoop step out32 255 (by decide) w identityTable

/-- `Shuffle(w)` with the block's FASTPRNG (R125, R145). -/
def shuffle (w : Dword) : Table := shuffleWith Config.prngStep Config.prngOut32 w

/-- `Inverse(T)`: scan the table once and set `I[T[x]] = x` (R146). -/
def inverseTable (t : Table) : Table :=
  (List.finRange 256).foldl (fun inv x => inv.set t[x].toNat (BitVec.ofNat 8 x.val) t[x].isLt)
    (Vector.replicate 256 0#8)

/-- The pad a seed gives at an index, a function of the two alone (R147, R150). -/
def padTable (seed : List Byte) (p : Nat) : Table := shuffle (padWord seed p)

/-- INIT's 512 writes for pad `p`: `FWD[p][x] = T[x]`, then `INV[p][T[x]] = x`, `x` rising (R147). -/
def padWrites (p : Half) (t : Table) : List (BitVec 25 × Byte) :=
  ((List.finRange 256).map fun x => (padAddr .fwd p (BitVec.ofNat 8 x.val), t[x]))
    ++ ((List.finRange 256).map fun x => (padAddr .inv p t[x], BitVec.ofNat 8 x.val))

/-- All of INIT's writes, `p` from 0 to NUMPADS - 1 (R147). -/
def initWrites (seed : List Byte) (numPads : Nat) : List (BitVec 25 × Byte) :=
  (List.range numPads).flatMap fun p => padWrites (BitVec.ofNat 16 p) (padTable seed p)

/-- The context INIT builds once its checks have passed (R147): both tables of every pad, both built-in selectors
seeded with the one word (spec/42_selector_stream.md R163), PHASE ACTIVE. -/
def buildContext (s : State) : State :=
  { s with
    padMem := cellsWrite s.padMem (initWrites s.seed s.numPads.toNat)
    senc := some (freshStream (selWord s.seed))
    sdec := some (freshStream (selWord s.seed))
    phase := .active }

/-- INIT (R140, R141, R147): StateError, then ConfigurationError with every cause at once, then UnsupportedWidth, each
before any state is written. -/
def execInit (s : State) : Result :=
  if s.phase = .active then .next (raise .stateError (phaseInfo s) s)
  else if causeMask s ≠ 0#16 then .next (raise .configurationError (causeMask s) s)
  else if s.qubits ≠ supportedWidth then .next (raise .unsupportedWidth (0#8 ++ s.qubits) s)
  else .next (respond 0#16 (buildContext s))

end Sys2Proof.Machine
end

