-- ==== Sys2Proof/Machine/Dispatch.lean ====
section
/-! DEFINITION. The meaning of each command, one arm per row of the opcode table. -/

namespace Sys2Proof.Machine

def exec (i : Instr) (s : State) : Host.Outcome State Fault Refusal :=
  match i with
  | .nop => Sys2Proof.Machine.execNop s
  | .seedb b => Sys2Proof.Machine.execSeedb b s
  | .seedclr => Sys2Proof.Machine.execSeedclr s
  | .rdcsr csr => Sys2Proof.Machine.execRdcsr csr s
  | .wrcsr csr n => Sys2Proof.Machine.execWrcsr csr n s
  | .init => Sys2Proof.Machine.execInit s
  | .mksel sel => Sys2Proof.Machine.execMksel sel s
  | .enc sel b => Sys2Proof.Machine.execEnc sel b s
  | .dec sel b => Sys2Proof.Machine.execDec sel b s
  | .destroy => Sys2Proof.Machine.execDestroy s

end Sys2Proof.Machine
end

