-- ==== Sys2Proof/Machine/Port.lean ====
section
/-! DEFINITION. The command port (spec/00_scope.md R10, spec/70_reset_and_hazards.md R300, R318, R319): the block
takes one event at a time, a command word or a reset, performs it whole, and then takes the next. -/

namespace Sys2Proof.Machine

/-- Perform a command word (R318: every word in every state has one response): a legal one by its command's meaning,
an illegal one by IllegalCommand (spec/30_encoding.md R95). -/
def performWord (w : Word) (s : State) : Result :=
  match decode w with
  | some i => exec i s
  | none => .next (raiseIllegal s)

/-- Perform one event. Reset is not a command and has no response (R300). -/
def performEvent (e : HostEvent) (s : State) : Result :=
  match e with
  | .word w => performWord w s
  | .reset => .next (resetBlock s)

/-- One step of the port: with nothing presented the block waits, unchanged (R301, notes/assumptions/2.md);
otherwise it takes the first event and performs it. -/
def portStep (s : State) : Result :=
  match s.inbox with
  | [] => .next s
  | e :: rest => performEvent e { s with inbox := rest }

/-- The low `nbits` bits of `w` put before what the host presents. -/
def presentNext (s : State) (nbits w : Nat) : State :=
  { s with inbox := .word (BitVec.ofNat 32 (w % 2 ^ nbits)) :: s.inbox }

/-- A whole run from a state (R318): the events performed in order, ending at the first stop. -/
def performEvents : List HostEvent → State → Result
  | [], s => .next s
  | e :: es, s =>
    match performEvent e s with
    | .next s' => performEvents es s'
    | .fault r => .fault r
    | .refused r => .refused r

end Sys2Proof.Machine
end

