-- ==== Sys2Proof/Machine/Step.lean ====
section
/-! DEFINITION. One step of the machine, and the state in which the host is about to present a given word. -/

namespace Sys2Proof.Machine

/-- One step: the block takes the next event of its command port and performs it (`Machine/Port.lean`). -/
def step (s : State) : Host.Outcome State Fault Refusal := portStep s

/-- `s` with the word of the low `nbits` bits of `w` presented next: it stands before whatever the host was about to
present (notes/assumptions/16.md). -/
def State.withFetchWord (s : State) (nbits w : Nat) : State := presentNext s nbits w

end Sys2Proof.Machine
end

