-- ==== Sys2Proof/Machine/ReferenceKdf.lean ====
section
/-! DEFINITION. The reference instance of DERIVE and the default salts (spec/46_reference_kdf.md, spec/00_scope.md
R7). They serve the spec's test vectors only: "Rules R241 to R246 define functions; they are not behaviour of the
block" (R240), and the machine does not use them (notes/assumptions/17.md). -/

namespace Sys2Proof.Machine

/-- `Ch` (R241). -/
def shaCh (e f g : Word) : Word := (e &&& f) ^^^ (~~~e &&& g)

/-- `Maj` (R241). -/
def shaMaj (a b c : Word) : Word := (a &&& b) ^^^ (a &&& c) ^^^ (b &&& c)

/-- `BSig0` (R241). -/
def shaBigSigma0 (a : Word) : Word := a.rotateRight 2 ^^^ a.rotateRight 13 ^^^ a.rotateRight 22

/-- `BSig1` (R241). -/
def shaBigSigma1 (e : Word) : Word := e.rotateRight 6 ^^^ e.rotateRight 11 ^^^ e.rotateRight 25

/-- `SSig0` (R241). -/
def shaSmallSigma0 (x : Word) : Word := x.rotateRight 7 ^^^ x.rotateRight 18 ^^^ (x >>> 3)

/-- `SSig1` (R241). -/
def shaSmallSigma1 (x : Word) : Word := x.rotateRight 17 ^^^ x.rotateRight 19 ^^^ (x >>> 10)

/-- The round constants `K[0..64)` (R242). -/
def shaConstants : List Word :=
  [0x428a2f98#32, 0x71374491#32, 0xb5c0fbcf#32, 0xe9b5dba5#32, 0x3956c25b#32, 0x59f111f1#32, 0x923f82a4#32, 0xab1c5ed5#32]
    ++ [0xd807aa98#32, 0x12835b01#32, 0x243185be#32, 0x550c7dc3#32, 0x72be5d74#32, 0x80deb1fe#32, 0x9bdc06a7#32, 0xc19bf174#32]
    ++ [0xe49b69c1#32, 0xefbe4786#32, 0x0fc19dc6#32, 0x240ca1cc#32, 0x2de92c6f#32, 0x4a7484aa#32, 0x5cb0a9dc#32, 0x76f988da#32]
    ++ [0x983e5152#32, 0xa831c66d#32, 0xb00327c8#32, 0xbf597fc7#32, 0xc6e00bf3#32, 0xd5a79147#32, 0x06ca6351#32, 0x14292967#32]
    ++ [0x27b70a85#32, 0x2e1b2138#32, 0x4d2c6dfc#32, 0x53380d13#32, 0x650a7354#32, 0x766a0abb#32, 0x81c2c92e#32, 0x92722c85#32]
    ++ [0xa2bfe8a1#32, 0xa81a664b#32, 0xc24b8b70#32, 0xc76c51a3#32, 0xd192e819#32, 0xd6990624#32, 0xf40e3585#32, 0x106aa070#32]
    ++ [0x19a4c116#32, 0x1e376c08#32, 0x2748774c#32, 0x34b0bcb5#32, 0x391c0cb3#32, 0x4ed8aa4a#32, 0x5b9cca4f#32, 0x682e6ff3#32]
    ++ [0x748f82ee#32, 0x78a5636f#32, 0x84c87814#32, 0x8cc70208#32, 0x90befffa#32, 0xa4506ceb#32, 0xbef9a3f7#32, 0xc67178f2#32]

/-- The eight words of a hash state. -/
structure ShaState where
  a : Word
  b : Word
  c : Word
  d : Word
  e : Word
  f : Word
  g : Word
  h : Word
  deriving DecidableEq, Repr

/-- The initial hash value `H0[0..8)` (R242). -/
def shaInitial : ShaState :=
  ⟨0x6a09e667#32, 0xbb67ae85#32, 0x3c6ef372#32, 0xa54ff53a#32, 0x510e527f#32, 0x9b05688c#32, 0x1f83d9ab#32, 0x5be0cd19#32⟩

/-- One round (R243). -/
def shaRound (s : ShaState) (kw : Word × Word) : ShaState :=
  let t1 := s.h + shaBigSigma1 s.e + shaCh s.e s.f s.g + kw.1 + kw.2
  let t2 := shaBigSigma0 s.a + shaMaj s.a s.b s.c
  ⟨t1 + t2, s.a, s.b, s.c, s.d + t1, s.e, s.f, s.g⟩

/-- `n` more words of the message schedule, from the last sixteen, newest first (R243). -/
def shaSchedule : Nat → List Word → List Word
  | 0, _ => []
  | n + 1, recent =>
    let w := shaSmallSigma1 (recent.getD 1 0#32) + recent.getD 6 0#32 + shaSmallSigma0 (recent.getD 14 0#32)
      + recent.getD 15 0#32
    w :: shaSchedule n (w :: recent.take 15)

/-- The big-endian 32-bit words of a byte string. -/
def wordsBE : List Byte → List Word
  | x0 :: x1 :: x2 :: x3 :: rest => (x0 ++ x1 ++ x2 ++ x3 : BitVec 32) :: wordsBE rest
  | _ => []

/-- The four bytes of a word, big-endian (R243). -/
def bytesBE (w : Word) : List Byte :=
  [w.extractLsb' 24 8, w.extractLsb' 16 8, w.extractLsb' 8 8, w.extractLsb' 0 8]

/-- One 64-byte block into the hash state (R243). -/
def shaBlock (s : ShaState) (block : List Byte) : ShaState :=
  let first := wordsBE block
  let r := (shaConstants.zip (first ++ shaSchedule 48 first.reverse)).foldl shaRound s
  ⟨s.a + r.a, s.b + r.b, s.c + r.c, s.d + r.d, s.e + r.e, s.f + r.f, s.g + r.g, s.h + r.h⟩

/-- The first `n` 64-byte blocks of a byte string. -/
def shaBlocks : Nat → List Byte → List (List Byte)
  | 0, _ => []
  | n + 1, m => m.take 64 :: shaBlocks n (m.drop 64)

/-- The padded message: 0x80, the fewest zero bytes that make the length 56 mod 64, the bit length as a 64-bit
big-endian integer (R243). For a message of 2^61 bytes or more R243 gives no value, since its bit length is no 64-bit
integer: DESIGN CHOICE, here the bit length modulo 2^64 (notes/assumptions/22.md). -/
def shaPadded (m : List Byte) : List Byte :=
  let bits := BitVec.ofNat 64 (8 * m.length)
  m ++ [0x80#8] ++ List.replicate ((119 - m.length % 64) % 64) 0#8
    ++ bytesBE (bits.extractLsb' 32 32) ++ bytesBE (bits.extractLsb' 0 32)

/-- SHA-256 (R243). -/
def sha256 (m : List Byte) : List Byte :=
  let p := shaPadded m
  let s := (shaBlocks (p.length / 64) p).foldl shaBlock shaInitial
  bytesBE s.a ++ bytesBE s.b ++ bytesBE s.c ++ bytesBE s.d ++ bytesBE s.e ++ bytesBE s.f ++ bytesBE s.g ++ bytesBE s.h

/-- The 64-byte HMAC key: longer keys hashed first, shorter ones padded with zeros (R244). -/
def hmacKey (key : List Byte) : List Byte :=
  let k := if key.length ≤ 64 then key else sha256 key
  k ++ List.replicate (64 - k.length) 0#8

/-- HMAC-SHA-256 (R244). -/
def hmac256 (key msg : List Byte) : List Byte :=
  let k := hmacKey key
  sha256 ((k.map (· ^^^ 0x5C#8)) ++ sha256 ((k.map (· ^^^ 0x36#8)) ++ msg))

/-- The xor of `U, F(U), F(F(U)), ...`, `n` more terms after the accumulated one (R245). -/
def pbkdf2Chain (password : List Byte) : Nat → List Byte → List Byte → List Byte
  | 0, _, acc => acc
  | n + 1, u, acc =>
    let u' := hmac256 password u
    pbkdf2Chain password n u' (acc.zipWith (· ^^^ ·) u')

/-- The block `T_i` (R245). R245 requires at least one iteration and gives no value for 0, and R250 passes the count on
unchecked: DESIGN CHOICE, here 0 iterations give what 1 gives (notes/assumptions/21.md). -/
def pbkdf2Block (password salt : List Byte) (iterations i : Nat) : List Byte :=
  let u := hmac256 password (salt ++ bytesBE (BitVec.ofNat 32 i))
  pbkdf2Chain password (iterations - 1) u u

/-- PBKDF2 with HMAC-SHA-256: blocks 1, 2, ... until there are enough bytes, then cut (R245). -/
def pbkdf2 (password salt : List Byte) (iterations outLen : Nat) : List Byte :=
  ((List.range ((outLen + 31) / 32)).flatMap fun i => pbkdf2Block password salt iterations (i + 1)).take outLen

/-- The shape of a conforming DERIVE (spec/40_primitives.md R121): HMAC-SHA-256 of the label under the key, then a
KDF of the digest. -/
def deriveVia (kdf : List Byte → List Byte → Nat → Nat → List Byte) (key label salt : List Byte)
    (iterations outLen : Nat) : List Byte :=
  kdf (hmac256 key label) salt iterations outLen

/-- The reference DERIVE (R250). -/
def deriveRef (key label salt : List Byte) (iterations outLen : Nat) : List Byte :=
  deriveVia pbkdf2 key label salt iterations outLen

/-- The default SHUFFLE_SALT, 42 ASCII bytes (spec/00_scope.md R7; from general knowledge, spec/93 G5). -/
def defaultShuffleSalt : List Byte :=
  [0x5F#8, 0x5F#8, 0x5F#8, 0x51#8, 0x55#8, 0x41#8, 0x4E#8, 0x54#8, 0x55#8, 0x4D#8, 0x5F#8, 0x50#8,
   0x45#8, 0x52#8, 0x4D#8, 0x55#8, 0x54#8, 0x41#8, 0x54#8, 0x49#8, 0x4F#8, 0x4E#8, 0x5F#8, 0x50#8,
   0x41#8, 0x44#8, 0x5F#8, 0x53#8, 0x48#8, 0x55#8, 0x46#8, 0x46#8, 0x4C#8, 0x45#8, 0x5F#8, 0x53#8,
   0x41#8, 0x4C#8, 0x54#8, 0x5F#8, 0x5F#8, 0x5F#8]

/-- The default PRNG_SALT, 39 ASCII bytes (spec/00_scope.md R7; from general knowledge, spec/93 G5). -/
def defaultPrngSalt : List Byte :=
  [0x5F#8, 0x5F#8, 0x5F#8, 0x51#8, 0x55#8, 0x41#8, 0x4E#8, 0x54#8, 0x55#8, 0x4D#8, 0x5F#8, 0x50#8,
   0x45#8, 0x52#8, 0x4D#8, 0x55#8, 0x54#8, 0x41#8, 0x54#8, 0x49#8, 0x4F#8, 0x4E#8, 0x5F#8, 0x50#8,
   0x41#8, 0x44#8, 0x5F#8, 0x50#8, 0x52#8, 0x4E#8, 0x47#8, 0x5F#8, 0x53#8, 0x41#8, 0x4C#8, 0x54#8,
   0x5F#8, 0x5F#8, 0x5F#8]

/-- The default SEED_MAX (spec/00_scope.md R7). -/
def defaultSeedMax : Nat := 256

end Sys2Proof.Machine
end

