-- ==== Sys2Proof/Machine/Script.lean ====
section
/-! DEFINITION. The textual syntax of commands (spec/30_encoding.md R99) and the pseudo-commands (R100): an assembler
from script lines to command words. How a line is split into tokens is the model's (notes/assumptions/19.md). -/

namespace Sys2Proof.Machine

/-- The eight pseudo-commands (R100). -/
inductive Pseudo where
  | seed (bs : List Byte)
  | setnp (n : Half)
  | setq (q : Byte)
  | new (n : Half) (q : Byte) (bs : List Byte)
  | encs (sel : Sel) (bs : List Byte)
  | decs (sel : Sel) (bs : List Byte)
  | encrypt (bs : List Byte)
  | decrypt (bs : List Byte)
  deriving DecidableEq, Repr

/-- The expansion of a pseudo-command (R100). -/
def expandPseudo : Pseudo → List Instr
  | .seed bs => bs.map .seedb
  | .setnp n => [.wrcsr .numpads n]
  | .setq q => [.wrcsr .qubits (immOfByte q)]
  | .new n q bs =>
    [.seedclr] ++ bs.map .seedb ++ [.wrcsr .numpads n, .wrcsr .qubits (immOfByte q), .init]
  | .encs x bs => bs.map (.enc x)
  | .decs x bs => bs.map (.dec x)
  | .encrypt bs => bs.map (.enc .senc)
  | .decrypt bs => bs.map (.dec .sdec)

/-- One line of a script. -/
inductive ScriptLine where
  /-- A blank or comment line. -/
  | blank
  | command (i : Instr)
  | pseudo (p : Pseudo)
  /-- `.word 0xXXXXXXXX`, which may be an illegal word. -/
  | raw (w : Word)
  deriving DecidableEq, Repr

/-- A token: a word in lower case (mnemonics are case-insensitive), or a text between double quotes as it stands. -/
inductive Token where
  | word (cs : List Char)
  | text (cs : List Char)
  deriving DecidableEq, Repr

/-- The word read so far, newest character first, as a token. -/
def flushWord (acc : List Char) : List Token := if acc = [] then [] else [.word acc.reverse]

/-- The tokens of a line: a `;` outside quotes starts a comment; blanks, tabs and commas separate words. -/
def lexLine : Bool → List Char → List Char → Option (List Token)
  | false, acc, [] => some (flushWord acc)
  | true, _, [] => none
  | true, acc, c :: cs =>
    if c = '"' then (lexLine false [] cs).map (Token.text acc.reverse :: ·)
    else lexLine true (c :: acc) cs
  | false, acc, c :: cs =>
    if c = ';' then some (flushWord acc)
    else if c = '"' then (if acc = [] then lexLine true [] cs else none)
    else if c = ' ' ∨ c = '\t' ∨ c = ',' then (lexLine false [] cs).map (flushWord acc ++ ·)
    else lexLine false (c.toLower :: acc) cs

/-- The value of a digit in base 10 or 16. -/
def digitValue (c : Char) : Option Nat :=
  if '0' ≤ c ∧ c ≤ '9' then some (c.toNat - 48)
  else if 'a' ≤ c ∧ c ≤ 'f' then some (c.toNat - 87)
  else none

/-- Digits in a base, after the value read so far. -/
def readDigits (base : Nat) : Nat → List Char → Option Nat
  | v, [] => some v
  | v, c :: cs =>
    match digitValue c with
    | none => none
    | some d => if d < base then readDigits base (base * v + d) cs else none

/-- A number, decimal or hexadecimal with `0x` (R99). -/
def readNumber : List Char → Option Nat
  | [] => none
  | '0' :: 'x' :: d :: ds => readDigits 16 0 (d :: ds)
  | d :: ds => readDigits 10 0 (d :: ds)

/-- A number below `2^w`. -/
def readSized (w : Nat) : Token → Option (BitVec w)
  | .word cs =>
    match readNumber cs with
    | none => none
    | some n => if n < 2 ^ w then some (BitVec.ofNat w n) else none
  | .text _ => none

/-- A list of byte operands. -/
def readBytes (ts : List Token) : Option (List Byte) := ts.mapM (readSized 8)

/-- A selector by name or number (R99). -/
def readSel : Token → Option Sel
  | .word cs =>
    if cs = "senc".toList then some .senc
    else if cs = "sdec".toList then some .sdec
    else if cs = "sx0".toList then some .sx0
    else if cs = "sx1".toList then some .sx1
    else (readSized 8 (.word cs)).bind selOf
  | .text _ => none

/-- A control register by name or number (R99). -/
def readCsr : Token → Option Csr
  | .word cs =>
    if cs = "status".toList then some .status
    else if cs = "numpads".toList then some .numpads
    else if cs = "qubits".toList then some .qubits
    else if cs = "seedlen".toList then some .seedlen
    else if cs = "id".toList then some .id
    else (readSized 8 (.word cs)).bind csrOf
  | .text _ => none

/-- The bytes of a text of 7-bit ASCII characters (spec/00_scope.md R13). -/
def asciiBytes (cs : List Char) : Option (List Byte) :=
  cs.mapM fun c => if c.toNat < 128 then some (BitVec.ofNat 8 c.toNat) else none

/-- The operands of a line after its mnemonic. -/
def readOperands (m : List Char) (ts : List Token) : Option ScriptLine :=
  if m = "nop".toList then (if ts = [] then some (.command .nop) else none)
  else if m = "seedclr".toList then (if ts = [] then some (.command .seedclr) else none)
  else if m = "init".toList then (if ts = [] then some (.command .init) else none)
  else if m = "destroy".toList then (if ts = [] then some (.command .destroy) else none)
  else if m = "seed".toList then
    match ts with
    | [.text cs] => (asciiBytes cs).map fun bs => .pseudo (.seed bs)
    | _ => (readBytes ts).map fun bs => .pseudo (.seed bs)
  else if m = "encrypt".toList then (readBytes ts).map fun bs => .pseudo (.encrypt bs)
  else if m = "decrypt".toList then (readBytes ts).map fun bs => .pseudo (.decrypt bs)
  else
    match ts with
    | [] => none
    | t :: rest =>
      if m = "seedb".toList then (if rest = [] then (readSized 8 t).map fun b => .command (.seedb b) else none)
      else if m = "rdcsr".toList then (if rest = [] then (readCsr t).map fun c => .command (.rdcsr c) else none)
      else if m = "mksel".toList then (if rest = [] then (readSel t).map fun x => .command (.mksel x) else none)
      else if m = ".word".toList then (if rest = [] then (readSized 32 t).map .raw else none)
      else if m = "setnp".toList then (if rest = [] then (readSized 16 t).map fun n => .pseudo (.setnp n) else none)
      else if m = "setq".toList then (if rest = [] then (readSized 8 t).map fun q => .pseudo (.setq q) else none)
      else if m = "encs".toList then
        (readSel t).bind fun x => (readBytes rest).map fun bs => .pseudo (.encs x bs)
      else if m = "decs".toList then
        (readSel t).bind fun x => (readBytes rest).map fun bs => .pseudo (.decs x bs)
      else
        match rest with
        | [] => none
        | u :: more =>
          if m = "wrcsr".toList then
            (if more = [] then (readCsr t).bind fun c => (readSized 16 u).map fun n => .command (.wrcsr c n)
             else none)
          else if m = "enc".toList then
            (if more = [] then (readSel t).bind fun x => (readSized 8 u).map fun b => .command (.enc x b)
             else none)
          else if m = "dec".toList then
            (if more = [] then (readSel t).bind fun x => (readSized 8 u).map fun b => .command (.dec x b)
             else none)
          else if m = "new".toList then
            (readSized 16 t).bind fun n => (readSized 8 u).bind fun q =>
              (readBytes more).map fun bs => .pseudo (.new n q bs)
          else none

/-- One line of a script, or `none` where it is no line of the syntax. -/
def parseLine (cs : List Char) : Option ScriptLine :=
  match lexLine false [] cs with
  | none => none
  | some [] => some .blank
  | some (.word m :: ts) => readOperands m ts
  | some (.text _ :: _) => none

/-- The commands a line stands for; a raw word stands for none. -/
def lineInstrs : ScriptLine → List Instr
  | .blank => []
  | .command i => [i]
  | .pseudo p => expandPseudo p
  | .raw _ => []

/-- The words a line stands for. -/
def lineWords : ScriptLine → List Word
  | .raw w => [w]
  | l => (lineInstrs l).map encode

/-- Assemble one line; "An assembler refuses an operand outside the ranges given" (R99). -/
def assembleLine (cs : List Char) : Option (List Word) :=
  match parseLine cs with
  | none => none
  | some l => if (lineInstrs l).all Instr.wf then some (lineWords l) else none

/-- Assemble a script, its lines from top to bottom (R99). -/
def assemble (lines : List (List Char)) : Option (List Word) := (lines.mapM assembleLine).map List.flatten

/-- The name of a response code (R98). -/
def codeName (c : BitVec 4) : Option (List Char) :=
  match c.toNat with
  | 0 => some "OK".toList
  | 1 => some "ConfigurationError".toList
  | 2 => some "UnsupportedWidth".toList
  | 3 => some "IllegalCommand".toList
  | 4 => some "StateError".toList
  | 5 => some "SeedOverflow".toList
  | 6 => some "SelectorInvalid".toList
  | _ => none

/-- A hexadecimal digit, upper case. -/
def hexDigit (d : BitVec 4) : Char := Char.ofNat (if d.toNat < 10 then 48 + d.toNat else 55 + d.toNat)

/-- A response as the vectors write it: the code name and the data as `0x` and four digits (R99). -/
def responseText (w : Word) : Option (List Char) :=
  (codeName (responseCode w)).map fun name =>
    name ++ " 0x".toList
      ++ [hexDigit (w.extractLsb' 12 4), hexDigit (w.extractLsb' 8 4), hexDigit (w.extractLsb' 4 4),
          hexDigit (w.extractLsb' 0 4)]

end Sys2Proof.Machine
end

