-- ==== Sys2Proof/Safety.lean ====
section
/-! DEFINITION. What counts as a safe state and a safe run, in the terms the statements use: the invariants of
spec/10_state.md R35 and R36, what a context holds, and the runs of spec/70_reset_and_hazards.md R318. -/

namespace Sys2Proof.Machine

/-- `FWD[p][x]` or `INV[p][x]` (spec/20_memory.md R61); `none` where the byte has no value. -/
def padByte (s : State) (d : Dir) (p : Half) (x : Byte) : Option Byte := memRead s (padAddr d p x)

/-- R36 item 4: every pad of the context is a bijection of the bytes with its inverse. -/
def PadsInverse (s : State) : Prop :=
  ∀ p : Half, p.toNat < s.numPads.toNat → ∀ x : Byte,
    (∃ y, padByte s .fwd p x = some y ∧ padByte s .inv p y = some x) ∧
    (∃ z, padByte s .inv p x = some z ∧ padByte s .fwd p z = some x)

/-- The law of R35: a valid register is the word it was seeded with, stepped once per draw. -/
def StreamLaw (s : State) : Prop :=
  ∀ x st, selSlot s x = some st → st.cur = Config.prngStep^[st.draws] st.w0

/-- The invariants of the state (R35, R36). -/
structure StateInv (s : State) : Prop where
  /-- R36 item 1. That the bytes at and above SEEDLEN are zero holds of every state of the model. -/
  seed_fits : s.seed.length ≤ Config.seedMax
  /-- R36 item 2, the parameters. -/
  active_config : s.phase = .active → s.numPads ≠ 0#16 ∧ s.qubits = supportedWidth
  /-- R36 item 2, the built-in registers. -/
  active_builtins : s.phase = .active → selValid s .senc = true ∧ selValid s .sdec = true
  /-- R36 item 3. -/
  empty_builtins : s.phase = .empty → selValid s .senc = false ∧ selValid s .sdec = false
  /-- R36 item 4. -/
  active_pads : s.phase = .active → PadsInverse s
  /-- While EMPTY no pad memory byte has a value (R37, spec/44_control.md R205). -/
  empty_pads : s.phase = .empty → s.padMem = []
  /-- R36 item 6, ERR. -/
  err_range : s.err.toNat ≤ 6
  /-- Pad memory is in its canonical form. -/
  mem_wf : Memory.wf s.padMem
  /-- R35. -/
  streams : StreamLaw s

/-- A step that stops neither in a fault nor in a refusal. -/
def Completes (r : Result) : Prop := ∃ t, r = .next t

/-- The states the block reaches from reset while the host presents what it likes. -/
inductive Reachable : State → Prop where
  | reset : Reachable State.reset
  | present (s : State) (e : HostEvent) : Reachable s → Reachable { s with inbox := s.inbox ++ [e] }
  | step (s t : State) : Reachable s → Sys2Proof.Machine.step s = .next t → Reachable t

/-- The words of a list of commands as host events. -/
def wordEvents (is : List Instr) : List HostEvent := is.map fun i => .word (encode i)

/-- The command of a direction: ENC for the forward table, DEC for the inverse one (spec/43_cipher_engine.md R182). -/
def cipherInstr : Dir → Sel → Byte → Instr
  | .fwd, x, b => .enc x b
  | .inv, x, b => .dec x b

/-- The registers a direction may name (spec/30_encoding.md R94). -/
def mayName : Dir → Sel → Bool
  | .fwd, x => x != .sdec
  | .inv, x => x != .senc

/-- The events of transforming a byte string in a direction, one command per byte (spec/43_cipher_engine.md R185). -/
def cipherEvents (d : Dir) (x : Sel) (bs : List Byte) : List HostEvent := wordEvents (bs.map (cipherInstr d x))

/-- The events of encrypting a byte string. -/
def encEvents (x : Sel) (bs : List Byte) : List HostEvent := cipherEvents .fwd x bs

/-- The events of decrypting a byte string. -/
def decEvents (x : Sel) (bs : List Byte) : List HostEvent := cipherEvents .inv x bs

/-- The responses a run has returned, from the state it began in to the state it reached. -/
def newResponses (s t : State) : List Word := t.responses.drop s.responses.length

/-- The bytes the responses of a run carry (spec/30_encoding.md R100). -/
def newBytes (s t : State) : List Byte := (newResponses s t).map responseByte

/-- Events that leave the stream of register `x` alone while a context is active (spec/43_cipher_engine.md R188):
every word but DESTROY and the commands that name `x`; not a reset. -/
def spares (x : Sel) : HostEvent → Bool
  | .reset => false
  | .word w =>
    match decode w with
    | none => true
    | some .nop => true
    | some (.seedb _) => true
    | some .seedclr => true
    | some (.rdcsr _) => true
    | some (.wrcsr _ _) => true
    | some .init => true
    | some (.mksel y) => y != x
    | some (.enc y _) => y != x
    | some (.dec y _) => y != x
    | some .destroy => false

/-- The word of an ENC or DEC that names register `x`. -/
def usesStream (x : Sel) : HostEvent → Bool
  | .reset => false
  | .word w =>
    match decode w with
    | none => false
    | some .nop => false
    | some (.seedb _) => false
    | some .seedclr => false
    | some (.rdcsr _) => false
    | some (.wrcsr _ _) => false
    | some .init => false
    | some (.mksel _) => false
    | some (.enc y _) => y == x
    | some (.dec y _) => y == x
    | some .destroy => false

/-- An event that ends in a fault of the block (spec/60_exceptions.md R262): its response has a code other than 0. -/
def RaisesFault (e : HostEvent) (s : State) : Prop :=
  ∃ t r, performEvent e s = .next t ∧ t.responses = s.responses ++ [r] ∧ responseCode r ≠ 0#4

/-- The runs of spec/43_cipher_engine.md R188: ENC and DEC naming `x`, with commands between them that spare `x` or
fault where they stand (an MKSEL naming `x` while the seed buffer is empty, say). -/
def StreamRun (x : Sel) : List HostEvent → State → Prop
  | [], _ => True
  | e :: es, s =>
    (usesStream x e = true ∨ spares x e = true ∨ RaisesFault e s) ∧
      ∀ t, performEvent e s = .next t → StreamRun x es t

/-- The responses of a run to the ENC and DEC of it that name `x`, in order. -/
def streamResponses (x : Sel) : List HostEvent → State → List Word
  | [], _ => []
  | e :: es, s =>
    match performEvent e s with
    | .next t => (if usesStream x e then newResponses s t else []) ++ streamResponses x es t
    | .fault _ => []
    | .refused _ => []

/-- Everything but selector register `x` and the responses is as it was. -/
def OnlySelector (x : Sel) (s t : State) : Prop :=
  (∀ y, y ≠ x → selSlot t y = selSlot s y) ∧ t.seed = s.seed ∧ (∀ a, memRead t a = memRead s a) ∧
    t.padMem = s.padMem ∧ t.phase = s.phase ∧ t.err = s.err ∧ t.numPads = s.numPads ∧ t.qubits = s.qubits ∧
    t.inbox = s.inbox

/-- What a host can see of a state without asking for a transform: PHASE, the valid flags, ERR, NUMPADS, QUBITS and
SEEDLEN (spec/10_state.md R23, R24, R30). -/
def SamePublic (s t : State) : Prop :=
  s.phase = t.phase ∧ (∀ x, selValid s x = selValid t x) ∧ s.err = t.err ∧ s.numPads = t.numPads ∧
    s.qubits = t.qubits ∧ s.seed.length = t.seed.length

end Sys2Proof.Machine
end

