-- ==== Sys2Proof/Certificates/Slice0/Obligations.lean ====
section
/-! DEFINITION. The statements for the provers, taken from the numbered rules of spec/. A response word is written out
as the 32-bit number of spec/30_encoding.md R97. -/

open Sys2Proof Sys2Proof.Machine

/-! ### Encoding -/

/-- Every well-formed instruction is read back from its word, every operand at every value. -/
def Obligations.DecodeEncodeRoundTrip : Prop :=
  ∀ i : Instr, i.wf = true → decode (encode i) = some i

/-- A word that decodes is the word of the instruction it decodes to, and that instruction is well formed. -/
def Obligations.EncodeDecodeRoundTrip : Prop :=
  ∀ (w : Word) (i : Instr), decode w = some i → i.wf = true ∧ encode i = w

/-- R95: the illegal words are exactly the eight items listed, and such a word changes nothing but `STATUS.ERR`, which
takes code 3. -/
def Obligations.IllegalWordsExactly : Prop :=
  ∀ (w : Word) (op a : Byte) (imm : Half),
    op = w.extractLsb' 24 8 → a = w.extractLsb' 16 8 → imm = w.extractLsb' 0 16 →
    ((decode w = none ↔
      (op ∉ [0x00#8, 0x01#8, 0x02#8, 0x03#8, 0x04#8, 0x10#8, 0x11#8, 0x20#8, 0x21#8, 0x3F#8]) ∨
      (op ∈ [0x00#8, 0x02#8, 0x10#8, 0x3F#8] ∧ (a ≠ 0#8 ∨ imm ≠ 0#16)) ∨
      (op = 0x01#8 ∧ (a ≠ 0#8 ∨ imm.extractLsb' 8 8 ≠ 0#8)) ∨
      (op = 0x03#8 ∧ (4 < a.toNat ∨ imm ≠ 0#16)) ∨
      (op = 0x04#8 ∧ (a ∉ [1#8, 2#8] ∨ (a = 2#8 ∧ imm.extractLsb' 8 8 ≠ 0#8))) ∨
      (op = 0x11#8 ∧ (a ∉ [2#8, 3#8] ∨ imm ≠ 0#16)) ∨
      (op = 0x20#8 ∧ (a ∉ [0#8, 2#8, 3#8] ∨ imm.extractLsb' 8 8 ≠ 0#8)) ∨
      (op = 0x21#8 ∧ (a ∉ [1#8, 2#8, 3#8] ∨ imm.extractLsb' 8 8 ≠ 0#8))) ∧
    (decode w = none → ∀ s : State,
      performWord w s = .next { s with err := 3#4, responses := s.responses ++ [0x30000000#32] }))

/-- A term that is not well formed has an illegal word, and its meaning is the answer to that word (the model's choice
for terms that are no command, notes/assumptions/11.md). -/
def Obligations.IllFormedTermsAreIllegalCommands : Prop :=
  ∀ (i : Instr) (s : State), i.wf = false →
    decode (encode i) = none ∧
    exec i s = .next { s with err := 3#4, responses := s.responses ++ [0x30000000#32] }

/-- R93: each row of the opcode table by its mask, its match and its further constraint, with the operands its fields
give. -/
def Obligations.DecodeFollowsMaskAndMatch : Prop :=
  decode 0xFFFFFFFF#32 = none ∧
  ∀ w : Word,
    (decode w = some .nop ↔ w &&& 0xFFFFFFFF#32 = 0x00000000#32) ∧
    (∀ b, decode w = some (.seedb b) ↔ w &&& 0xFFFFFF00#32 = 0x01000000#32 ∧ b = w.extractLsb' 0 8) ∧
    (decode w = some .seedclr ↔ w &&& 0xFFFFFFFF#32 = 0x02000000#32) ∧
    (∀ c, decode w = some (.rdcsr c) ↔
      w &&& 0xFF00FFFF#32 = 0x03000000#32 ∧ (w.extractLsb' 16 8).toNat ≤ 4 ∧ csrNumber c = w.extractLsb' 16 8) ∧
    (∀ c n, decode w = some (.wrcsr c n) ↔
      w &&& 0xFF000000#32 = 0x04000000#32 ∧
        (w.extractLsb' 16 8 = 1#8 ∨ (w.extractLsb' 16 8 = 2#8 ∧ w.extractLsb' 8 8 = 0#8)) ∧
        csrNumber c = w.extractLsb' 16 8 ∧ n = w.extractLsb' 0 16) ∧
    (decode w = some .init ↔ w &&& 0xFFFFFFFF#32 = 0x10000000#32) ∧
    (∀ x, decode w = some (.mksel x) ↔ w &&& 0xFFFEFFFF#32 = 0x11020000#32 ∧ selNumber x = w.extractLsb' 16 8) ∧
    (∀ x b, decode w = some (.enc x b) ↔
      w &&& 0xFFFCFF00#32 = 0x20000000#32 ∧ w.extractLsb' 16 8 ≠ 1#8 ∧
        selNumber x = w.extractLsb' 16 8 ∧ b = w.extractLsb' 0 8) ∧
    (∀ x b, decode w = some (.dec x b) ↔
      w &&& 0xFFFCFF00#32 = 0x21000000#32 ∧ w.extractLsb' 16 8 ≠ 0#8 ∧
        selNumber x = w.extractLsb' 16 8 ∧ b = w.extractLsb' 0 8) ∧
    (decode w = some .destroy ↔ w &&& 0xFFFFFFFF#32 = 0x3F000000#32)

/-- Words of the spec's encoding vectors (spec/95_test_vectors.md section 2), one per command. -/
def Obligations.SpecWordsDecode : Prop :=
  decode 0x00000000#32 = some .nop ∧ decode 0x0100006B#32 = some (.seedb 0x6B#8) ∧
  decode 0x02000000#32 = some .seedclr ∧ decode 0x03030000#32 = some (.rdcsr .seedlen) ∧
  decode 0x0401FFFF#32 = some (.wrcsr .numpads 0xFFFF#16) ∧ decode 0x04020008#32 = some (.wrcsr .qubits 8#16) ∧
  decode 0x10000000#32 = some .init ∧ decode 0x11030000#32 = some (.mksel .sx1) ∧
  decode 0x20020041#32 = some (.enc .sx0 0x41#8) ∧ decode 0x2103007A#32 = some (.dec .sx1 0x7A#8) ∧
  decode 0x3F000000#32 = some .destroy

/-! ### The step -/

/-- R10, R318: a step takes the word presented first from the port and runs the instruction it decodes to; R95, R265: a
word that does not decode raises IllegalCommand. That the words presented stand in an inbox is the model's
(notes/assumptions/1.md). -/
def Obligations.StepRunsDecodedInstruction : Prop :=
  ∀ (s : State) (w : Word) (rest : List HostEvent),
    (∀ i, decode w = some i → step { s with inbox := .word w :: rest } = exec i { s with inbox := rest }) ∧
    (decode w = none → step { s with inbox := .word w :: rest } =
      .next { s with inbox := rest, err := 3#4, responses := s.responses ++ [0x30000000#32] })

/-- R300: a reset leaves the reset state and returns no response. That the events still to come stay is the model's
(notes/assumptions/1.md). -/
def Obligations.ResetEventGivesResetState : Prop :=
  ∀ (s : State) (rest : List HostEvent),
    step { s with inbox := .reset :: rest } =
      .next { State.reset with inbox := rest, responses := s.responses }

/-- With nothing presented the block waits, unchanged (R301; that waiting is a step is the model's,
notes/assumptions/2.md). -/
def Obligations.IdleStepKeepsState : Prop :=
  ∀ s : State, s.inbox = [] → step s = .next s

/-- R37: what reset leaves, register by register, and what RDCSR then reads. That pad memory holds no value is the
model's reading (notes/assumptions/8.md). -/
def Obligations.ResetLeavesStatedValues : Prop :=
  State.reset.phase = .empty ∧ (∀ x, selValid State.reset x = false) ∧ State.reset.err = 0#4 ∧
  State.reset.numPads = 0#16 ∧ State.reset.qubits = 0#8 ∧ State.reset.seed.length = 0 ∧
  (∀ k, seedByte State.reset k = 0#8) ∧ (∀ a, memRead State.reset a = none) ∧
  (∀ c, exec (.rdcsr c) State.reset =
    .next { State.reset with responses := [if c = .id then 0x00000807#32 else 0x00000000#32] })

/-! ### Control commands -/

/-- R200: NOP is the word 0, every other word with its opcode byte is illegal, and it changes nothing but the response
it returns, in either phase. -/
def Obligations.NopOnlyResponds : Prop :=
  encode .nop = 0x00000000#32 ∧
  (∀ w : Word, w.extractLsb' 24 8 = 0x00#8 → w ≠ 0x00000000#32 → decode w = none) ∧
  (∀ s : State, exec .nop s = .next { s with responses := s.responses ++ [0x00000000#32] })

/-- R201, R267: SEEDB appends its byte at index SEEDLEN, or raises SeedOverflow with SEEDLEN as info where the buffer
is full; nothing else changes. A malformed word is illegal. -/
def Obligations.SeedbAppendsOrOverflows : Prop :=
  (∀ w : Word, w.extractLsb' 24 8 = 0x01#8 → w.extractLsb' 16 8 ≠ 0#8 ∨ w.extractLsb' 8 8 ≠ 0#8 → decode w = none) ∧
  ∀ (b : Byte) (s : State),
    encode (.seedb b) = 0x01000000#32 + b.setWidth 32 ∧
    (s.seed.length ≠ Config.seedMax →
      exec (.seedb b) s =
        .next { s with seed := s.seed ++ [b], responses := s.responses ++ [0x00000000#32] } ∧
      (∀ k, seedByte { s with seed := s.seed ++ [b] } k = if k = s.seed.length then b else seedByte s k)) ∧
    (s.seed.length = Config.seedMax →
      exec (.seedb b) s =
        .next { s with err := 5#4, responses := s.responses ++ [BitVec.ofNat 32 (0x50000000 + Config.seedMax)] })

/-- R202: SEEDCLR empties the buffer, every byte zero and SEEDLEN zero, in either phase, and touches nothing else. -/
def Obligations.SeedclrEmptiesBuffer : Prop :=
  encode .seedclr = 0x02000000#32 ∧
  ∀ s : State, ∃ t, exec .seedclr s = .next t ∧ (∀ k, seedByte t k = 0#8) ∧ t.seed.length = 0 ∧
    t = { s with seed := t.seed, responses := s.responses ++ [0x00000000#32] }

/-- R203 with R29 to R34: RDCSR returns the register, zero-extended, bit by bit for STATUS, and writes nothing; a
malformed word is illegal. -/
def Obligations.RdcsrReturnsRegister : Prop :=
  (∀ w : Word, w.extractLsb' 24 8 = 0x03#8 → 4 < (w.extractLsb' 16 8).toNat ∨ w.extractLsb' 0 16 ≠ 0#16 →
    decode w = none) ∧
  ∀ (c : Csr) (s : State), ∃ v : Half,
    encode (.rdcsr c) = 0x03000000#32 + (csrNumber c).setWidth 32 * 0x00010000#32 ∧
    exec (.rdcsr c) s = .next { s with responses := s.responses ++ [0#16 ++ v] } ∧
    (c = .status →
      v.getLsbD 0 = decide (s.phase = .active) ∧ v.extractLsb' 1 3 = 0#3 ∧
      v.getLsbD 4 = selValid s .senc ∧ v.getLsbD 5 = selValid s .sdec ∧ v.getLsbD 6 = selValid s .sx0 ∧
      v.getLsbD 7 = selValid s .sx1 ∧ v.extractLsb' 8 4 = s.err ∧ v.extractLsb' 12 4 = 0#4) ∧
    (c = .numpads → v = s.numPads) ∧
    (c = .qubits → v.toNat = s.qubits.toNat) ∧
    (c = .seedlen → s.seed.length ≤ Config.seedMax → v.toNat = s.seed.length) ∧
    (c = .id → v = 0x0807#16)

/-- R204: WRCSR writes NUMPADS or QUBITS while EMPTY and raises StateError(1) while ACTIVE; a word naming another
register, or a QUBITS value above 255, is an illegal command whatever the phase. -/
def Obligations.WrcsrWritesOrFaults : Prop :=
  (∀ n : Half, encode (.wrcsr .numpads n) = 0x04010000#32 + n.setWidth 32 ∧
    encode (.wrcsr .qubits n) = 0x04020000#32 + n.setWidth 32) ∧
  ∀ s : State,
    (s.phase = .empty →
      (∀ n : Half, exec (.wrcsr .numpads n) s =
        .next { s with numPads := n, responses := s.responses ++ [0x00000000#32] }) ∧
      (∀ n : Half, n.toNat < 256 → exec (.wrcsr .qubits n) s =
        .next { s with qubits := n.setWidth 8, responses := s.responses ++ [0x00000000#32] })) ∧
    (s.phase = .active →
      (∀ n : Half, exec (.wrcsr .numpads n) s =
        .next { s with err := 4#4, responses := s.responses ++ [0x40000001#32] }) ∧
      (∀ n : Half, n.toNat < 256 → exec (.wrcsr .qubits n) s =
        .next { s with err := 4#4, responses := s.responses ++ [0x40000001#32] })) ∧
    (∀ w : Word, w.extractLsb' 24 8 = 0x04#8 →
      (w.extractLsb' 16 8 ≠ 1#8 ∧ w.extractLsb' 16 8 ≠ 2#8) ∨
        (w.extractLsb' 16 8 = 2#8 ∧ w.extractLsb' 8 8 ≠ 0#8) →
      performWord w s = .next { s with err := 3#4, responses := s.responses ++ [0x30000000#32] })

/-- R205, R302: DESTROY leaves exactly the reset state, in either phase, and responds 0; a reset leaves the same state;
and afterwards no sequence of commands tells the block from one just reset. What the host has still to present and
what it has been given are not state of the block (notes/assumptions/1.md, notes/assumptions/3.md). -/
def Obligations.DestroyGivesResetState : Prop :=
  encode .destroy = 0x3F000000#32 ∧
  ∀ s : State,
    exec .destroy s =
      .next { State.reset with inbox := s.inbox, responses := s.responses ++ [0x00000000#32] } ∧
    performEvent .reset s = .next { State.reset with inbox := s.inbox, responses := s.responses } ∧
    ∀ es : List HostEvent, ∃ t u v,
      exec .destroy s = .next t ∧ performEvents es t = .next u ∧ performEvents es State.reset = .next v ∧
      newResponses t u = newResponses State.reset v

/-! ### INIT and the pad generator -/

/-- R141: INIT's faults in their order, and that with none of them it cannot fail. The mask has one bit per cause. -/
def Obligations.InitFaultsInOrder : Prop :=
  ∀ s : State,
    (s.phase = .active →
      exec .init s = .next { s with err := 4#4, responses := s.responses ++ [0x40000001#32] }) ∧
    (s.phase = .empty → (s.seed = [] ∨ s.numPads = 0#16 ∨ s.qubits = 0#8) →
      exec .init s = .next { s with
        err := 1#4
        responses := s.responses ++ [BitVec.ofNat 32 (0x10000000 + (if s.seed = [] then 1 else 0)
          + (if s.numPads = 0#16 then 2 else 0) + (if s.qubits = 0#8 then 4 else 0))] }) ∧
    (s.phase = .empty → s.seed ≠ [] → s.numPads ≠ 0#16 → s.qubits ≠ 0#8 → s.qubits ≠ 8#8 →
      exec .init s = .next { s with
        err := 2#4, responses := s.responses ++ [BitVec.ofNat 32 (0x20000000 + s.qubits.toNat)] }) ∧
    (s.phase = .empty → s.seed ≠ [] → s.numPads ≠ 0#16 → s.qubits = 8#8 →
      ∃ t, exec .init s = .next t ∧ t.phase = .active ∧ t.err = s.err ∧
        t.responses = s.responses ++ [0x00000000#32])

/-- R147: INIT fills both tables of every pad below NUMPADS from the seed, seeds both built-in selectors with the one
selector word, becomes ACTIVE, and leaves everything else, pad memory at every other address included. -/
def Obligations.InitBuildsContext : Prop :=
  ∀ s : State, s.phase = .empty → s.seed ≠ [] → s.numPads ≠ 0#16 → s.qubits = 8#8 →
    ∃ t, exec .init s = .next t ∧
      t = { s with
        senc := some { cur := selWord s.seed, w0 := selWord s.seed, draws := 0 }
        sdec := some { cur := selWord s.seed, w0 := selWord s.seed, draws := 0 }
        padMem := t.padMem
        phase := .active
        responses := s.responses ++ [0x00000000#32] } ∧
      (∀ (p : Half) (x : Byte), p.toNat < s.numPads.toNat →
        memRead t (padAddr .fwd p x) = some (entry (shuffle (padWord s.seed p.toNat)) x) ∧
        memRead t (padAddr .inv p (entry (shuffle (padWord s.seed p.toNat)) x)) = some x) ∧
      (∀ a : BitVec 25, (∀ (d : Dir) (p : Half) (x : Byte), p.toNat < s.numPads.toNat → a ≠ padAddr d p x) →
        memRead t a = memRead s a)

/-- R154: INIT directly after reset reports all three causes. -/
def Obligations.InitAfterResetReportsEveryCause : Prop :=
  step (State.reset.withFetchWord 32 0x10000000) =
    .next { State.reset with err := 1#4, responses := [0x10000007#32] }

/-- R150: the content of a pad is a function of the seed and its index alone, whatever NUMPADS is, and equal seeds give
equal built-in selectors. -/
def Obligations.InitIsDeterministic : Prop :=
  ∀ s₁ s₂ t₁ t₂ : State, s₁.seed = s₂.seed → s₁.phase = .empty → s₂.phase = .empty →
    exec .init s₁ = .next t₁ → t₁.phase = .active → exec .init s₂ = .next t₂ → t₂.phase = .active →
    t₁.senc = t₂.senc ∧ t₁.sdec = t₂.sdec ∧
    ∀ (p : Half) (d : Dir) (x : Byte), p.toNat < s₁.numPads.toNat → p.toNat < s₂.numPads.toNat →
      padByte t₁ d p x = padByte t₂ d p x

/-- R148: for every generator and every seed word the shuffle is a permutation of the bytes. -/
def Obligations.ShuffleIsPermutation : Prop :=
  ∀ (g : Dword → Dword) (o : Dword → Word) (w : Dword), Function.Bijective (entry (shuffleWith g o w))

/-- R127, R154: under the default generator the seed word 0 gives the rotation `T[x] = (x + 1) mod 256`. The default
generator comes from general knowledge (notes/assumptions/17.md). -/
def Obligations.ShuffleOfZeroIsRotation : Prop :=
  (shuffleWith xorshiftStep xorshiftOut 0#64).toList = (List.range 256).map fun x => BitVec.ofNat 8 ((x + 1) % 256)

/-- R146, R149: the scan of a bijective table gives its inverse, in both directions; and after INIT the inverse table of
every pad is the inverse of its shuffle, each of the two tables undoing the other. -/
def Obligations.InverseTableInverts : Prop :=
  (∀ t : Table, Function.Bijective (entry t) → ∀ x : Byte,
    entry (inverseTable t) (entry t x) = x ∧ entry t (entry (inverseTable t) x) = x) ∧
  ∀ s : State, s.phase = .empty → s.seed ≠ [] → s.numPads ≠ 0#16 → s.qubits = 8#8 →
    ∃ t, exec .init s = .next t ∧
      ∀ (p : Half) (y : Byte), p.toNat < s.numPads.toNat →
        memRead t (padAddr .inv p y) = some (entry (inverseTable (shuffle (padWord s.seed p.toNat))) y) ∧
        (∃ c, memRead t (padAddr .fwd p y) = some c ∧ memRead t (padAddr .inv p c) = some y) ∧
        (∃ c, memRead t (padAddr .inv p y) = some c ∧ memRead t (padAddr .fwd p c) = some y)

/-- R143, R151: the label of a pad is the four bytes of "QPP_" and the numeral of its index, and different pads have
different labels. -/
def Obligations.PadLabelsDistinct : Prop :=
  (∀ i, padLabel i = [0x51#8, 0x50#8, 0x50#8, 0x5F#8] ++ dec i) ∧
  padLabel 0 = [0x51#8, 0x50#8, 0x50#8, 0x5F#8, 0x30#8] ∧
  padLabel 10 = [0x51#8, 0x50#8, 0x50#8, 0x5F#8, 0x31#8, 0x30#8] ∧
  padLabel 1023 = [0x51#8, 0x50#8, 0x50#8, 0x5F#8, 0x31#8, 0x30#8, 0x32#8, 0x33#8] ∧
  ∀ i j, padLabel i = padLabel j → i = j

/-- R13: `dec(i)` is the decimal numeral of `i` in ASCII, with no leading zero but for `dec(0) = 30`. -/
def Obligations.DecIsShortestNumeral : Prop :=
  dec 0 = [0x30#8] ∧
  ∀ i, (dec i).foldl (fun v b => 10 * v + (b.toNat - 48)) 0 = i ∧
    (∀ b ∈ dec i, 48 ≤ b.toNat ∧ b.toNat ≤ 57) ∧ (i ≠ 0 → (dec i).head? ≠ some 0x30#8)

/-- R122: the seed word is the little-endian value of the 8 bytes DERIVE returns for 128 iterations, used with the
label of a pad and SHUFFLE_SALT, and with the selector label and PRNG_SALT. -/
def Obligations.SeedWordIsLittleEndian : Prop :=
  (∀ seed label salt : List Byte,
    (derive seed label salt 128 8).length = 8 ∧
    (seedWord seed label salt).toNat =
      ((List.range 8).map fun k => ((derive seed label salt 128 8).getD k 0#8).toNat * 2 ^ (8 * k)).sum) ∧
  (∀ seed i, padWord seed i = seedWord seed (padLabel i) Config.shuffleSalt) ∧
  (∀ seed, selWord seed =
    seedWord seed ("PERMUTATION_MATRIX_SELECTOR".toList.map fun c => BitVec.ofNat 8 c.toNat) Config.prngSalt)

/-! ### Selectors -/

/-- R161, R162: MKSEL seeds an external slot in either phase, raises ConfigurationError(1) where the seed buffer is
empty, and has no word but the two of the external slots. -/
def Obligations.MkselSeedsExternalSlot : Prop :=
  encode (.mksel .sx0) = 0x11020000#32 ∧ encode (.mksel .sx1) = 0x11030000#32 ∧
  (∀ (w : Word) (s : State), w.extractLsb' 24 8 = 0x11#8 → w ≠ 0x11020000#32 → w ≠ 0x11030000#32 →
    performWord w s = .next { s with err := 3#4, responses := s.responses ++ [0x30000000#32] }) ∧
  ∀ (x : Sel) (s : State), x = .sx0 ∨ x = .sx1 →
    (s.seed ≠ [] →
      ∃ t, exec (.mksel x) s = .next t ∧
        selSlot t x = some { cur := selWord s.seed, w0 := selWord s.seed, draws := 0 } ∧
        t.responses = s.responses ++ [0x00000000#32] ∧ OnlySelector x s t) ∧
    (s.seed = [] →
      exec (.mksel x) s = .next { s with err := 1#4, responses := s.responses ++ [0x10000001#32] })

/-- R169: every index a draw yields is below NUMPADS. -/
def Obligations.DrawIndexBelowNumPads : Prop :=
  ∀ (n : Half) (st : Stream), n ≠ 0#16 → (drawIndex n st).toNat < n.toNat

/-- R166: after `k` draws a register seeded with `w` holds `step^k(w)`, and its next index is
`out32(step^(k+1)(w)) mod NUMPADS`. -/
def Obligations.StreamStateAfterDraws : Prop :=
  ∀ (w : Dword) (k : Nat) (n : Half), n ≠ 0#16 →
    advance^[k] (freshStream w) = { cur := Config.prngStep^[k] w, w0 := w, draws := k } ∧
    (drawIndex n (advance^[k] (freshStream w))).toNat =
      (Config.prngOut32 (Config.prngStep^[k + 1] w)).toNat % n.toNat

/-- R167: the state a register reaches by the draw of an ENC or DEC, one step on, does not depend on NUMPADS. -/
def Obligations.DrawnStateIgnoresNumPads : Prop :=
  ∀ (x : Sel) (d₁ d₂ : Dir) (b₁ b₂ : Byte) (s₁ s₂ t₁ t₂ : State), s₁.phase = .active → s₂.phase = .active →
    selSlot s₁ x = selSlot s₂ x → mayName d₁ x = true → mayName d₂ x = true →
    exec (cipherInstr d₁ x b₁) s₁ = .next t₁ → exec (cipherInstr d₂ x b₂) s₂ = .next t₂ →
    selSlot t₁ x = selSlot t₂ x ∧
    ∀ st, selSlot s₁ x = some st →
      selSlot t₁ x = some { cur := Config.prngStep st.cur, w0 := st.w0, draws := st.draws + 1 }

/-- R23, R165, R183: a selector register changes only by being seeded (INIT, MKSEL), by one draw of an ENC or DEC that
names it, or by DESTROY. -/
def Obligations.SelectorChangesOnlyAsStated : Prop :=
  ∀ (w : Word) (s t : State) (x : Sel), performWord w s = .next t →
    selSlot t x = selSlot s x ∨
    (decode w = some .init ∧ s.phase = .empty ∧ (x = .senc ∨ x = .sdec) ∧
      selSlot t x = some { cur := selWord s.seed, w0 := selWord s.seed, draws := 0 }) ∨
    (decode w = some (.mksel x) ∧ (x = .sx0 ∨ x = .sx1) ∧
      selSlot t x = some { cur := selWord s.seed, w0 := selWord s.seed, draws := 0 }) ∨
    (∃ b st, ((decode w = some (.enc x b) ∧ x ≠ .sdec) ∨ (decode w = some (.dec x b) ∧ x ≠ .senc)) ∧
      selSlot s x = some st ∧
      selSlot t x = some { cur := Config.prngStep st.cur, w0 := st.w0, draws := st.draws + 1 }) ∨
    (decode w = some .destroy ∧ selSlot t x = none)

/-! ### The cipher engine -/

/-- R181: ENC takes one draw of its register and answers the forward-table entry of the index and the byte; nothing
else changes. -/
def Obligations.EncReadsForwardTable : Prop :=
  ∀ (s : State) (x : Sel) (b c : Byte) (st : Stream), x ≠ .sdec → s.phase = .active →
    selSlot s x = some st → s.numPads ≠ 0#16 →
    memRead s (padAddr .fwd
      (BitVec.ofNat 16 ((Config.prngOut32 (Config.prngStep st.cur)).toNat % s.numPads.toNat)) b) = some c →
    ∃ t, exec (.enc x b) s = .next t ∧ t.responses = s.responses ++ [0#24 ++ c] ∧
      selSlot t x = some { cur := Config.prngStep st.cur, w0 := st.w0, draws := st.draws + 1 } ∧
      OnlySelector x s t

/-- R182: DEC does the same with the inverse table. -/
def Obligations.DecReadsInverseTable : Prop :=
  ∀ (s : State) (x : Sel) (b c : Byte) (st : Stream), x ≠ .senc → s.phase = .active →
    selSlot s x = some st → s.numPads ≠ 0#16 →
    memRead s (padAddr .inv
      (BitVec.ofNat 16 ((Config.prngOut32 (Config.prngStep st.cur)).toNat % s.numPads.toNat)) b) = some c →
    ∃ t, exec (.dec x b) s = .next t ∧ t.responses = s.responses ++ [0#24 ++ c] ∧
      selSlot t x = some { cur := Config.prngStep st.cur, w0 := st.w0, draws := st.draws + 1 } ∧
      OnlySelector x s t

/-- R184: the faults of ENC and DEC in their order; none of them advances a register; under a live context the built-in
registers never fault. -/
def Obligations.CipherFaultsInOrder : Prop :=
  ∀ s : State,
    (∀ w : Word, w.extractLsb' 24 8 = 0x20#8 →
      w.extractLsb' 16 8 ∉ [0#8, 2#8, 3#8] ∨ w.extractLsb' 8 8 ≠ 0#8 →
      performWord w s = .next { s with err := 3#4, responses := s.responses ++ [0x30000000#32] }) ∧
    (∀ w : Word, w.extractLsb' 24 8 = 0x21#8 →
      w.extractLsb' 16 8 ∉ [1#8, 2#8, 3#8] ∨ w.extractLsb' 8 8 ≠ 0#8 →
      performWord w s = .next { s with err := 3#4, responses := s.responses ++ [0x30000000#32] }) ∧
    ∀ b : Byte,
      (∀ x, x ≠ .sdec → s.phase = .empty →
        exec (.enc x b) s = .next { s with err := 4#4, responses := s.responses ++ [0x40000000#32] }) ∧
      (∀ x, x ≠ .senc → s.phase = .empty →
        exec (.dec x b) s = .next { s with err := 4#4, responses := s.responses ++ [0x40000000#32] }) ∧
      (∀ x, x ≠ .sdec → s.phase = .active → selSlot s x = none →
        exec (.enc x b) s = .next { s with
          err := 6#4, responses := s.responses ++ [BitVec.ofNat 32 (0x60000000 + (selNumber x).toNat)] }) ∧
      (∀ x, x ≠ .senc → s.phase = .active → selSlot s x = none →
        exec (.dec x b) s = .next { s with
          err := 6#4, responses := s.responses ++ [BitVec.ofNat 32 (0x60000000 + (selNumber x).toNat)] }) ∧
      (StateInv s → s.phase = .active →
        (∃ (t : State) (c : Byte), exec (.enc .senc b) s = .next t ∧ t.responses = s.responses ++ [0#24 ++ c]) ∧
        (∃ (t : State) (c : Byte), exec (.dec .sdec b) s = .next t ∧ t.responses = s.responses ++ [0#24 ++ c]))

/-- R194: for a given state, ENC and DEC are the permutations `FWD[idx]` and `INV[idx]` of the data byte, one index for
all bytes, and the next state but for the response does not depend on the byte. -/
def Obligations.CipherPermutesDataByte : Prop :=
  ∀ (s : State) (x : Sel), StateInv s → s.phase = .active → selValid s x = true →
    ∃ (idx : Half) (f g : Byte → Byte) (u : State), Function.Bijective f ∧ Function.Bijective g ∧
      (∀ b, g (f b) = b ∧ f (g b) = b) ∧
      (∀ b, padByte s .fwd idx b = some (f b) ∧ padByte s .inv idx b = some (g b)) ∧
      (x ≠ .sdec → ∀ b, exec (.enc x b) s = .next { u with responses := s.responses ++ [0#24 ++ f b] }) ∧
      (x ≠ .senc → ∀ b, exec (.dec x b) s = .next { u with responses := s.responses ++ [0#24 ++ g b] })

/-- R186: the closed form of the response, from the word a register was seeded with and its draw count. -/
def Obligations.CipherClosedForm : Prop :=
  ∀ (s : State) (x : Sel) (st : Stream) (b : Byte) (idx : Half), StateInv s → s.phase = .active →
    selSlot s x = some st →
    idx = BitVec.ofNat 16 ((Config.prngOut32 (Config.prngStep^[st.draws + 1] st.w0)).toNat % s.numPads.toNat) →
    (x ≠ .sdec → ∃ t c, exec (.enc x b) s = .next t ∧ padByte s .fwd idx b = some c ∧
      t.responses = s.responses ++ [0#24 ++ c]) ∧
    (x ≠ .senc → ∃ t c, exec (.dec x b) s = .next t ∧ padByte s .inv idx b = some c ∧
      t.responses = s.responses ++ [0#24 ++ c])

/-- R185, R186, R188: a run over a byte string, from a register seeded with `w0` and drawn `k` times, completes; its
`i`-th byte is the table entry of the index `out32(step^(k+i+1)(w0)) mod NUMPADS`, the draws grow by its length, and
nothing else changes. Splitting the string over several runs, empty pieces included, changes neither the responses nor
the state. -/
def Obligations.ChunkBoundaryTransparency : Prop :=
  ∀ (d : Dir) (x : Sel),
    (∀ (s : State) (st : Stream) (bs : List Byte), StateInv s → s.phase = .active → mayName d x = true →
      selSlot s x = some st →
      ∃ (t : State) (out : List Byte), performEvents (cipherEvents d x bs) s = .next t ∧
        t.responses = s.responses ++ out.map (fun c => 0#24 ++ c) ∧ out.length = bs.length ∧
        (∀ (i : Nat) (h : i < bs.length),
          padByte s d (BitVec.ofNat 16
            ((Config.prngOut32 (Config.prngStep^[st.draws + i + 1] st.w0)).toNat % s.numPads.toNat)) bs[i] = out[i]?) ∧
        selSlot t x =
          some { cur := Config.prngStep^[st.draws + bs.length] st.w0, w0 := st.w0, draws := st.draws + bs.length } ∧
        OnlySelector x s t) ∧
    ∀ (bs cs : List Byte) (s t u : State),
      performEvents (cipherEvents d x bs) s = .next t → performEvents (cipherEvents d x cs) t = .next u →
      performEvents (cipherEvents d x (bs ++ cs)) s = .next u ∧ newBytes s u = newBytes s t ++ newBytes t u

/-- R188, the strong form: in an ACTIVE context, words that do not name register `x` and are not DESTROY, and words that
fault where they stand, may stand anywhere in a run of ENC and DEC naming `x` without changing any response of the
run. -/
def Obligations.InterleavedWordsDoNotDisturbStream : Prop :=
  ∀ (x : Sel) (es : List HostEvent) (s : State), StateInv s → s.phase = .active → StreamRun x es s →
    streamResponses x es s = streamResponses x (es.filter (usesStream x)) s

/-- R189: the round trip between two contexts with equal pads and equal NUMPADS, over a pair of registers seeded with
equal words and drawn equally often: decrypting the responses of a run of ENC gives back its bytes, and the draw
counts are equal again. -/
def Obligations.RoundTripBetweenPeers : Prop :=
  ∀ (A B : State) (sa sb : Sel) (u v : Stream), StateInv A → StateInv B → A.phase = .active → B.phase = .active →
    sa ≠ .sdec → sb ≠ .senc → selSlot A sa = some u → selSlot B sb = some v →
    u.w0 = v.w0 → u.draws = v.draws → A.numPads = B.numPads →
    (∀ (d : Dir) (p : Half) (x : Byte), p.toNat < A.numPads.toNat → padByte A d p x = padByte B d p x) →
    ∀ bs : List Byte, ∃ A' B' u' v',
      performEvents (encEvents sa bs) A = .next A' ∧
      performEvents (decEvents sb (newBytes A A')) B = .next B' ∧
      (newBytes A A').length = bs.length ∧ newBytes B B' = bs ∧
      selSlot A' sa = some u' ∧ selSlot B' sb = some v' ∧
      u'.draws = u.draws + bs.length ∧ v'.draws = u'.draws

/-- R189 for contexts built by INIT: two blocks configured alike build contexts of which each decrypts with `S[1]` what
the other encrypts with `S[0]`. -/
def Obligations.RoundTripAfterInit : Prop :=
  ∀ A₀ B₀ : State, StateInv A₀ → StateInv B₀ → A₀.phase = .empty → B₀.phase = .empty → A₀.seed = B₀.seed → A₀.seed ≠ [] →
    A₀.numPads = B₀.numPads → A₀.numPads ≠ 0#16 → A₀.qubits = 8#8 → B₀.qubits = 8#8 →
    ∃ A B, exec .init A₀ = .next A ∧ exec .init B₀ = .next B ∧
      ∀ bs : List Byte, ∃ A' B',
        performEvents (encEvents .senc bs) A = .next A' ∧
        performEvents (decEvents .sdec (newBytes A A')) B = .next B' ∧
        newBytes B B' = bs

/-- R206, R303: the commands of `new(seed, numPads, 8)`, issued while EMPTY, all answer OK and build the context of
that seed. -/
def Obligations.NewSequenceBuildsContext : Prop :=
  ∀ (s : State) (n : Half) (bs : List Byte), StateInv s → s.phase = .empty → bs ≠ [] →
    bs.length ≤ Config.seedMax → n ≠ 0#16 →
    ∃ t, performEvents (wordEvents (expandPseudo (.new n 8#8 bs))) s = .next t ∧
      t.phase = .active ∧ t.seed = bs ∧ t.numPads = n ∧ t.qubits = 8#8 ∧
      newResponses s t = List.replicate (bs.length + 4) 0x00000000#32 ∧
      (∀ (p : Half) (x : Byte), p.toNat < n.toNat →
        padByte t .fwd p x = some (entry (shuffle (padWord bs p.toNat)) x) ∧
        padByte t .inv p (entry (shuffle (padWord bs p.toNat)) x) = some x) ∧
      selSlot t .senc = some { cur := selWord bs, w0 := selWord bs, draws := 0 } ∧
      selSlot t .sdec = selSlot t .senc

/-! ### Storage -/

/-- R61: the fields of a pad memory address. -/
def Obligations.PadAddrFields : Prop :=
  ∀ (p : Half) (x : Byte),
    (padAddr .fwd p x).toNat = p.toNat * 2 ^ 8 + x.toNat ∧
    (padAddr .inv p x).toNat = 2 ^ 24 + p.toNat * 2 ^ 8 + x.toNat

/-- R75: no word but DESTROY writes pad memory while a context is active, and while none is only INIT does. -/
def Obligations.PadMemoryImmutable : Prop :=
  ∀ (w : Word) (s t : State), performWord w s = .next t → decode w ≠ some .destroy →
    (s.phase = .active ∨ decode w ≠ some .init) → ∀ a, memRead t a = memRead s a

/-- Every step keeps pad memory in its canonical form, from any state in that form; the form is the model's
(notes/assumptions/8.md). -/
def Obligations.StepKeepsMemoryForm : Prop :=
  ∀ s t : State, Memory.wf s.padMem → step s = .next t → Memory.wf t.padMem

/-- R24: only SEEDB, SEEDCLR and DESTROY change the seed buffer. -/
def Obligations.SeedBufferChangesOnlyByItsCommands : Prop :=
  ∀ (w : Word) (s t : State), performWord w s = .next t → decode w ≠ some .destroy →
    (∀ b, decode w ≠ some (.seedb b)) → decode w ≠ some .seedclr → t.seed = s.seed

/-- R31, R32: only WRCSR and DESTROY change NUMPADS and QUBITS, and while a context is active only DESTROY does. -/
def Obligations.ParametersFrozenWhileActive : Prop :=
  ∀ (w : Word) (s t : State), performWord w s = .next t → decode w ≠ some .destroy →
    (s.phase = .active ∨ ∀ c n, decode w ≠ some (.wrcsr c n)) →
    t.numPads = s.numPads ∧ t.qubits = s.qubits

/-! ### Faults and responses -/

/-- R97, R262: every word returns exactly one response, its bits 27:16 zero and its code at most 6; where the code is
not 0, nothing but `STATUS.ERR` has changed, and it holds that code. -/
def Obligations.FaultChangesOnlyErr : Prop :=
  ∀ (w : Word) (s t : State), performWord w s = .next t →
    ∃ r : Word, t.responses = s.responses ++ [r] ∧ r.extractLsb' 16 12 = 0#12 ∧
      (r.extractLsb' 28 4).toNat ≤ 6 ∧
      (r.extractLsb' 28 4 ≠ 0#4 → t = { s with err := r.extractLsb' 28 4, responses := s.responses ++ [r] })

/-- R269, R98: which faults each command can raise once decoded, in which states, with which info. -/
def Obligations.FaultsOfEachCommand : Prop :=
  ∀ (i : Instr) (s t : State) (r : Word), i.wf = true → exec i s = .next t →
    t.responses = s.responses ++ [r] → r.extractLsb' 28 4 ≠ 0#4 →
    match i with
    | .nop => False
    | .seedb _ => s.seed.length = Config.seedMax ∧ r = BitVec.ofNat 32 (0x50000000 + Config.seedMax)
    | .seedclr => False
    | .rdcsr _ => False
    | .wrcsr _ _ => s.phase = .active ∧ r = 0x40000001#32
    | .init =>
      (s.phase = .active ∧ r = 0x40000001#32) ∨
      (s.phase = .empty ∧ (s.seed = [] ∨ s.numPads = 0#16 ∨ s.qubits = 0#8) ∧
        r = BitVec.ofNat 32 (0x10000000 + (if s.seed = [] then 1 else 0) + (if s.numPads = 0#16 then 2 else 0)
          + (if s.qubits = 0#8 then 4 else 0))) ∨
      (s.phase = .empty ∧ s.seed ≠ [] ∧ s.numPads ≠ 0#16 ∧ s.qubits ≠ 0#8 ∧ s.qubits ≠ 8#8 ∧
        r = BitVec.ofNat 32 (0x20000000 + s.qubits.toNat))
    | .mksel _ => s.seed = [] ∧ r = 0x10000001#32
    | .enc x _ =>
      (s.phase = .empty ∧ r = 0x40000000#32) ∨
      (s.phase = .active ∧ selValid s x = false ∧ r = BitVec.ofNat 32 (0x60000000 + (selNumber x).toNat))
    | .dec x _ =>
      (s.phase = .empty ∧ r = 0x40000000#32) ∨
      (s.phase = .active ∧ selValid s x = false ∧ r = BitVec.ofNat 32 (0x60000000 + (selNumber x).toNat))
    | .destroy => False

/-- R30, R273: ERR is overwritten by each fault, left alone by each successful command but DESTROY, and cleared by
DESTROY. -/
def Obligations.ErrIsSticky : Prop :=
  ∀ (w : Word) (s t : State) (r : Word), performWord w s = .next t → t.responses = s.responses ++ [r] →
    t.err = if decode w = some .destroy then 0#4
      else if r.extractLsb' 28 4 = 0#4 then s.err else r.extractLsb' 28 4

/-- R305: the transitions of the phase machine, exhaustively. -/
def Obligations.PhaseMachine : Prop :=
  ∀ (e : HostEvent) (s t : State), performEvent e s = .next t →
    match e with
    | .reset => t.phase = .empty
    | .word w =>
      (decode w = some .destroy → t.phase = .empty) ∧
      (decode w = some .init → s.phase = .active → t.phase = .active) ∧
      (decode w = some .init → s.phase = .empty →
        (t.phase = .active ↔ t.responses = s.responses ++ [0x00000000#32])) ∧
      (decode w ≠ some .destroy → decode w ≠ some .init → t.phase = s.phase)

/-- R23, R24, R26: what the host sees depends only on PHASE, the valid flags, ERR, NUMPADS, QUBITS and SEEDLEN, but for
the data byte of an ENC or DEC: two states that agree there answer every command with the same code and agree there
again, and with the same word where the command is no ENC or DEC. -/
def Obligations.SecretsDoNotReachResponses : Prop :=
  ∀ (i : Instr) (s₁ s₂ t₁ t₂ : State), SamePublic s₁ s₂ → exec i s₁ = .next t₁ → exec i s₂ = .next t₂ →
    SamePublic t₁ t₂ ∧ ∃ r₁ r₂ : Word, t₁.responses = s₁.responses ++ [r₁] ∧ t₂.responses = s₂.responses ++ [r₂] ∧
      r₁.extractLsb' 28 4 = r₂.extractLsb' 28 4 ∧
      ((∀ x b, i ≠ .enc x b ∧ i ≠ .dec x b) → r₁ = r₂)

/-! ### Invariants and runs -/

/-- R36, R37: the invariants hold after reset. The form of pad memory, and that it holds no value while EMPTY, are the
model's (notes/assumptions/8.md, notes/assumptions/9.md). -/
def Obligations.ResetSatisfiesInvariants : Prop := StateInv State.reset

/-- R35, R36: every step from a state that meets the invariants ends in one that does. The form of pad memory, and that
it holds no value while EMPTY, are the model's (notes/assumptions/8.md, notes/assumptions/9.md). -/
def Obligations.StepKeepsInvariants : Prop :=
  ∀ s t : State, StateInv s → step s = .next t → StateInv t

/-- R318: from a state that meets the invariants no step stops: every event has its next state. -/
def Obligations.StepNeverStops : Prop :=
  ∀ s : State, StateInv s → Completes (step s)

/-- R318: a run of any events from a state that meets the invariants completes, having returned one response for each
word and none for a reset; R35, R36: it ends in a state that meets them. The form of pad memory, and that it holds no
value while EMPTY, are the model's (notes/assumptions/8.md, notes/assumptions/9.md). -/
def Obligations.RunsCompleteWithOneResponsePerWord : Prop :=
  ∀ (es : List HostEvent) (s : State), StateInv s →
    ∃ t, performEvents es s = .next t ∧ StateInv t ∧
      (newResponses s t).length = (es.filter fun e => e != .reset).length ∧
      s.responses <+: t.responses

/-- R35, R36: the invariants hold in every state reachable from reset by any events the host presents. The form of pad
memory, and that it holds no value while EMPTY, are the model's (notes/assumptions/8.md, notes/assumptions/9.md). -/
def Obligations.ReachableStatesSatisfyInvariants : Prop :=
  ∀ s : State, Reachable s → StateInv s
end

