-- ==== Sys2Proof/Laws/Decode.lean ====
section
/-! SUPPORT. The fields of an assembled command word, and a word as its three fields. -/

namespace Sys2Proof

theorem commandWord_getLsbD (op a : Byte) (imm : Half) (i : Nat) :
    (commandWord op a imm).getLsbD i =
      if i < 16 then imm.getLsbD i else if i < 24 then a.getLsbD (i - 16) else op.getLsbD (i - 24) := by
  rw [commandWord, BitVec.getLsbD_append, BitVec.getLsbD_append]
  split
  · rfl
  · by_cases h : i < 24
    · simp [h, show i - 16 < 8 by omega]
    · simp [h, show ¬ i - 16 < 8 by omega, show i - 16 - 8 = i - 24 by omega]

theorem immOfByte_getLsbD (b : Byte) (i : Nat) :
    (immOfByte b).getLsbD i = if i < 8 then b.getLsbD i else false := by
  rw [immOfByte, BitVec.getLsbD_append]
  split <;> simp

@[simp] theorem opField_commandWord (op a : Byte) (imm : Half) : opField (commandWord op a imm) = op := by
  apply BitVec.eq_of_getLsbD_eq
  intro i hi
  simp [opField, commandWord_getLsbD, hi]
  omega

@[simp] theorem aField_commandWord (op a : Byte) (imm : Half) : aField (commandWord op a imm) = a := by
  apply BitVec.eq_of_getLsbD_eq
  intro i hi
  simp [aField, commandWord_getLsbD, hi]
  omega

@[simp] theorem immField_commandWord (op a : Byte) (imm : Half) : immField (commandWord op a imm) = imm := by
  apply BitVec.eq_of_getLsbD_eq
  intro i hi
  simp [immField, commandWord_getLsbD, hi]

/-- A word is the word of its fields (spec/30_encoding.md R91). -/
theorem commandWord_fields (w : Word) : commandWord (opField w) (aField w) (immField w) = w := by
  apply BitVec.eq_of_getLsbD_eq
  intro i hi
  rw [commandWord_getLsbD]
  simp only [opField, aField, immField, BitVec.getLsbD_extractLsb']
  split
  · next h => simp [h]
  · split
    · next h1 h2 => simp [show i - 16 < 8 by omega, show 16 + (i - 16) = i by omega]
    · next h1 h2 => simp [show i - 24 < 8 by omega, show 24 + (i - 24) = i by omega]

@[simp] theorem immLow_immOfByte (b : Byte) : immLow (immOfByte b) = b := by
  apply BitVec.eq_of_getLsbD_eq
  intro i hi
  simp [immLow, immOfByte_getLsbD, hi]

@[simp] theorem immHigh_immOfByte (b : Byte) : immHigh (immOfByte b) = 0#8 := by
  apply BitVec.eq_of_getLsbD_eq
  intro i hi
  simp [immHigh, immOfByte_getLsbD]

/-- An immediate whose high byte is zero is the immediate of its low byte. -/
theorem immOfByte_immLow {imm : Half} (h : immHigh imm = 0#8) : immOfByte (immLow imm) = imm := by
  apply BitVec.eq_of_getLsbD_eq
  intro i hi
  rw [immOfByte_getLsbD]
  simp only [immLow, BitVec.getLsbD_extractLsb']
  split
  · next h1 => simp [h1]
  · next h1 =>
    have h2 := congrArg (fun v => v.getLsbD (i - 8)) h
    simpa [immHigh, show i - 8 < 8 by omega, show 8 + (i - 8) = i by omega] using h2.symm

/-- The number of a selector names it back (spec/30_encoding.md R92). -/
@[simp] theorem selOf_selNumber (x : Sel) : selOf (selNumber x) = some x := by cases x <;> decide

/-- The number of a control register names it back (spec/30_encoding.md R92). -/
@[simp] theorem csrOf_csrNumber (c : Csr) : csrOf (csrNumber c) = some c := by cases c <;> decide

/-- Only its own number names a selector. -/
theorem selNumber_of_selOf {a : Byte} {x : Sel} (h : selOf a = some x) : selNumber x = a := by
  unfold selOf at h
  split at h
  · next ha => cases h; exact ha.symm
  split at h
  · next ha => cases h; exact ha.symm
  split at h
  · next ha => cases h; exact ha.symm
  split at h
  · next ha => cases h; exact ha.symm
  · cases h

/-- Only its own number names a control register. -/
theorem csrNumber_of_csrOf {a : Byte} {c : Csr} (h : csrOf a = some c) : csrNumber c = a := by
  unfold csrOf at h
  split at h
  · next ha => cases h; exact ha.symm
  split at h
  · next ha => cases h; exact ha.symm
  split at h
  · next ha => cases h; exact ha.symm
  split at h
  · next ha => cases h; exact ha.symm
  split at h
  · next ha => cases h; exact ha.symm
  · cases h

end Sys2Proof
end

