-- ==== Sys2Proof/Laws/State.lean ====
section
/-! SUPPORT. One lemma per field per update of the state, each true by computation, so that no proof unfolds a
record update. -/

namespace Sys2Proof.Machine

variable (s : State)

@[simp] theorem returnWord_senc (w : Word) : (returnWord w s).senc = s.senc := rfl
@[simp] theorem returnWord_sdec (w : Word) : (returnWord w s).sdec = s.sdec := rfl
@[simp] theorem returnWord_sx0 (w : Word) : (returnWord w s).sx0 = s.sx0 := rfl
@[simp] theorem returnWord_sx1 (w : Word) : (returnWord w s).sx1 = s.sx1 := rfl
@[simp] theorem returnWord_seed (w : Word) : (returnWord w s).seed = s.seed := rfl
@[simp] theorem returnWord_padMem (w : Word) : (returnWord w s).padMem = s.padMem := rfl
@[simp] theorem returnWord_phase (w : Word) : (returnWord w s).phase = s.phase := rfl
@[simp] theorem returnWord_err (w : Word) : (returnWord w s).err = s.err := rfl
@[simp] theorem returnWord_numPads (w : Word) : (returnWord w s).numPads = s.numPads := rfl
@[simp] theorem returnWord_qubits (w : Word) : (returnWord w s).qubits = s.qubits := rfl
@[simp] theorem returnWord_inbox (w : Word) : (returnWord w s).inbox = s.inbox := rfl
@[simp] theorem returnWord_responses (w : Word) : (returnWord w s).responses = s.responses ++ [w] := rfl

@[simp] theorem respond_senc (d : Half) : (respond d s).senc = s.senc := rfl
@[simp] theorem respond_sdec (d : Half) : (respond d s).sdec = s.sdec := rfl
@[simp] theorem respond_sx0 (d : Half) : (respond d s).sx0 = s.sx0 := rfl
@[simp] theorem respond_sx1 (d : Half) : (respond d s).sx1 = s.sx1 := rfl
@[simp] theorem respond_seed (d : Half) : (respond d s).seed = s.seed := rfl
@[simp] theorem respond_padMem (d : Half) : (respond d s).padMem = s.padMem := rfl
@[simp] theorem respond_phase (d : Half) : (respond d s).phase = s.phase := rfl
@[simp] theorem respond_err (d : Half) : (respond d s).err = s.err := rfl
@[simp] theorem respond_numPads (d : Half) : (respond d s).numPads = s.numPads := rfl
@[simp] theorem respond_qubits (d : Half) : (respond d s).qubits = s.qubits := rfl
@[simp] theorem respond_inbox (d : Half) : (respond d s).inbox = s.inbox := rfl
@[simp] theorem respond_responses (d : Half) : (respond d s).responses = s.responses ++ [responseWord 0#4 d] := rfl

@[simp] theorem raise_senc (f : FaultCode) (n : Half) : (raise f n s).senc = s.senc := rfl
@[simp] theorem raise_sdec (f : FaultCode) (n : Half) : (raise f n s).sdec = s.sdec := rfl
@[simp] theorem raise_sx0 (f : FaultCode) (n : Half) : (raise f n s).sx0 = s.sx0 := rfl
@[simp] theorem raise_sx1 (f : FaultCode) (n : Half) : (raise f n s).sx1 = s.sx1 := rfl
@[simp] theorem raise_seed (f : FaultCode) (n : Half) : (raise f n s).seed = s.seed := rfl
@[simp] theorem raise_padMem (f : FaultCode) (n : Half) : (raise f n s).padMem = s.padMem := rfl
@[simp] theorem raise_phase (f : FaultCode) (n : Half) : (raise f n s).phase = s.phase := rfl
@[simp] theorem raise_err (f : FaultCode) (n : Half) : (raise f n s).err = faultNumber f := rfl
@[simp] theorem raise_numPads (f : FaultCode) (n : Half) : (raise f n s).numPads = s.numPads := rfl
@[simp] theorem raise_qubits (f : FaultCode) (n : Half) : (raise f n s).qubits = s.qubits := rfl
@[simp] theorem raise_inbox (f : FaultCode) (n : Half) : (raise f n s).inbox = s.inbox := rfl
@[simp] theorem raise_responses (f : FaultCode) (n : Half) : (raise f n s).responses = s.responses ++ [responseWord (faultNumber f) n] := rfl

@[simp] theorem raiseIllegal_senc : (raiseIllegal s).senc = s.senc := rfl
@[simp] theorem raiseIllegal_sdec : (raiseIllegal s).sdec = s.sdec := rfl
@[simp] theorem raiseIllegal_sx0 : (raiseIllegal s).sx0 = s.sx0 := rfl
@[simp] theorem raiseIllegal_sx1 : (raiseIllegal s).sx1 = s.sx1 := rfl
@[simp] theorem raiseIllegal_seed : (raiseIllegal s).seed = s.seed := rfl
@[simp] theorem raiseIllegal_padMem : (raiseIllegal s).padMem = s.padMem := rfl
@[simp] theorem raiseIllegal_phase : (raiseIllegal s).phase = s.phase := rfl
@[simp] theorem raiseIllegal_err : (raiseIllegal s).err = 3#4 := rfl
@[simp] theorem raiseIllegal_numPads : (raiseIllegal s).numPads = s.numPads := rfl
@[simp] theorem raiseIllegal_qubits : (raiseIllegal s).qubits = s.qubits := rfl
@[simp] theorem raiseIllegal_inbox : (raiseIllegal s).inbox = s.inbox := rfl
@[simp] theorem raiseIllegal_responses : (raiseIllegal s).responses = s.responses ++ [responseWord 3#4 0#16] := rfl

@[simp] theorem seedAppend_senc (b : Byte) : (seedAppend s b).senc = s.senc := rfl
@[simp] theorem seedAppend_sdec (b : Byte) : (seedAppend s b).sdec = s.sdec := rfl
@[simp] theorem seedAppend_sx0 (b : Byte) : (seedAppend s b).sx0 = s.sx0 := rfl
@[simp] theorem seedAppend_sx1 (b : Byte) : (seedAppend s b).sx1 = s.sx1 := rfl
@[simp] theorem seedAppend_seed (b : Byte) : (seedAppend s b).seed = s.seed ++ [b] := rfl
@[simp] theorem seedAppend_padMem (b : Byte) : (seedAppend s b).padMem = s.padMem := rfl
@[simp] theorem seedAppend_phase (b : Byte) : (seedAppend s b).phase = s.phase := rfl
@[simp] theorem seedAppend_err (b : Byte) : (seedAppend s b).err = s.err := rfl
@[simp] theorem seedAppend_numPads (b : Byte) : (seedAppend s b).numPads = s.numPads := rfl
@[simp] theorem seedAppend_qubits (b : Byte) : (seedAppend s b).qubits = s.qubits := rfl
@[simp] theorem seedAppend_inbox (b : Byte) : (seedAppend s b).inbox = s.inbox := rfl
@[simp] theorem seedAppend_responses (b : Byte) : (seedAppend s b).responses = s.responses := rfl

@[simp] theorem seedClear_senc : (seedClear s).senc = s.senc := rfl
@[simp] theorem seedClear_sdec : (seedClear s).sdec = s.sdec := rfl
@[simp] theorem seedClear_sx0 : (seedClear s).sx0 = s.sx0 := rfl
@[simp] theorem seedClear_sx1 : (seedClear s).sx1 = s.sx1 := rfl
@[simp] theorem seedClear_seed : (seedClear s).seed = [] := rfl
@[simp] theorem seedClear_padMem : (seedClear s).padMem = s.padMem := rfl
@[simp] theorem seedClear_phase : (seedClear s).phase = s.phase := rfl
@[simp] theorem seedClear_err : (seedClear s).err = s.err := rfl
@[simp] theorem seedClear_numPads : (seedClear s).numPads = s.numPads := rfl
@[simp] theorem seedClear_qubits : (seedClear s).qubits = s.qubits := rfl
@[simp] theorem seedClear_inbox : (seedClear s).inbox = s.inbox := rfl
@[simp] theorem seedClear_responses : (seedClear s).responses = s.responses := rfl

@[simp] theorem resetBlock_senc : (resetBlock s).senc = none := rfl
@[simp] theorem resetBlock_sdec : (resetBlock s).sdec = none := rfl
@[simp] theorem resetBlock_sx0 : (resetBlock s).sx0 = none := rfl
@[simp] theorem resetBlock_sx1 : (resetBlock s).sx1 = none := rfl
@[simp] theorem resetBlock_seed : (resetBlock s).seed = [] := rfl
@[simp] theorem resetBlock_padMem : (resetBlock s).padMem = [] := rfl
@[simp] theorem resetBlock_phase : (resetBlock s).phase = .empty := rfl
@[simp] theorem resetBlock_err : (resetBlock s).err = 0#4 := rfl
@[simp] theorem resetBlock_numPads : (resetBlock s).numPads = 0#16 := rfl
@[simp] theorem resetBlock_qubits : (resetBlock s).qubits = 0#8 := rfl
@[simp] theorem resetBlock_inbox : (resetBlock s).inbox = s.inbox := rfl
@[simp] theorem resetBlock_responses : (resetBlock s).responses = s.responses := rfl

@[simp] theorem buildContext_senc : (buildContext s).senc = some (freshStream (selWord s.seed)) := rfl
@[simp] theorem buildContext_sdec : (buildContext s).sdec = some (freshStream (selWord s.seed)) := rfl
@[simp] theorem buildContext_sx0 : (buildContext s).sx0 = s.sx0 := rfl
@[simp] theorem buildContext_sx1 : (buildContext s).sx1 = s.sx1 := rfl
@[simp] theorem buildContext_seed : (buildContext s).seed = s.seed := rfl
@[simp] theorem buildContext_padMem : (buildContext s).padMem = cellsWrite s.padMem (initWrites s.seed s.numPads.toNat) := rfl
@[simp] theorem buildContext_phase : (buildContext s).phase = .active := rfl
@[simp] theorem buildContext_err : (buildContext s).err = s.err := rfl
@[simp] theorem buildContext_numPads : (buildContext s).numPads = s.numPads := rfl
@[simp] theorem buildContext_qubits : (buildContext s).qubits = s.qubits := rfl
@[simp] theorem buildContext_inbox : (buildContext s).inbox = s.inbox := rfl
@[simp] theorem buildContext_responses : (buildContext s).responses = s.responses := rfl

@[simp] theorem setSel_seed (x : Sel) (v : Stream) : (setSel s x v).seed = s.seed := by cases x <;> rfl
@[simp] theorem setSel_padMem (x : Sel) (v : Stream) : (setSel s x v).padMem = s.padMem := by cases x <;> rfl
@[simp] theorem setSel_phase (x : Sel) (v : Stream) : (setSel s x v).phase = s.phase := by cases x <;> rfl
@[simp] theorem setSel_err (x : Sel) (v : Stream) : (setSel s x v).err = s.err := by cases x <;> rfl
@[simp] theorem setSel_numPads (x : Sel) (v : Stream) : (setSel s x v).numPads = s.numPads := by cases x <;> rfl
@[simp] theorem setSel_qubits (x : Sel) (v : Stream) : (setSel s x v).qubits = s.qubits := by cases x <;> rfl
@[simp] theorem setSel_inbox (x : Sel) (v : Stream) : (setSel s x v).inbox = s.inbox := by cases x <;> rfl
@[simp] theorem setSel_responses (x : Sel) (v : Stream) : (setSel s x v).responses = s.responses := by cases x <;> rfl

@[simp] theorem csrWrite_senc (c : Csr) (n : Half) : (csrWrite s c n).senc = s.senc := by cases c <;> rfl
@[simp] theorem csrWrite_sdec (c : Csr) (n : Half) : (csrWrite s c n).sdec = s.sdec := by cases c <;> rfl
@[simp] theorem csrWrite_sx0 (c : Csr) (n : Half) : (csrWrite s c n).sx0 = s.sx0 := by cases c <;> rfl
@[simp] theorem csrWrite_sx1 (c : Csr) (n : Half) : (csrWrite s c n).sx1 = s.sx1 := by cases c <;> rfl
@[simp] theorem csrWrite_seed (c : Csr) (n : Half) : (csrWrite s c n).seed = s.seed := by cases c <;> rfl
@[simp] theorem csrWrite_padMem (c : Csr) (n : Half) : (csrWrite s c n).padMem = s.padMem := by cases c <;> rfl
@[simp] theorem csrWrite_phase (c : Csr) (n : Half) : (csrWrite s c n).phase = s.phase := by cases c <;> rfl
@[simp] theorem csrWrite_err (c : Csr) (n : Half) : (csrWrite s c n).err = s.err := by cases c <;> rfl
@[simp] theorem csrWrite_inbox (c : Csr) (n : Half) : (csrWrite s c n).inbox = s.inbox := by cases c <;> rfl
@[simp] theorem csrWrite_responses (c : Csr) (n : Half) : (csrWrite s c n).responses = s.responses := by cases c <;> rfl

@[simp] theorem csrWrite_numpads_numPads (n : Half) : (csrWrite s .numpads n).numPads = n := rfl
@[simp] theorem csrWrite_numpads_qubits (n : Half) : (csrWrite s .numpads n).qubits = s.qubits := rfl
@[simp] theorem csrWrite_qubits_numPads (n : Half) : (csrWrite s .qubits n).numPads = s.numPads := rfl
@[simp] theorem csrWrite_qubits_qubits (n : Half) : (csrWrite s .qubits n).qubits = immLow n := rfl

/-! Selector registers through the updates. -/

@[simp] theorem selSlot_setSel_same (x : Sel) (v : Stream) : selSlot (setSel s x v) x = some v := by
  cases x <;> rfl

theorem selSlot_setSel_of_ne {x y : Sel} (h : y ≠ x) (v : Stream) : selSlot (setSel s x v) y = selSlot s y := by
  cases x <;> cases y <;> first | rfl | exact absurd rfl h

@[simp] theorem selSlot_returnWord (w : Word) (y : Sel) : selSlot (returnWord w s) y = selSlot s y := by
  cases y <;> rfl

@[simp] theorem selSlot_respond (d : Half) (y : Sel) : selSlot (respond d s) y = selSlot s y := by cases y <;> rfl

@[simp] theorem selSlot_raise (f : FaultCode) (n : Half) (y : Sel) : selSlot (raise f n s) y = selSlot s y := by
  cases y <;> rfl

@[simp] theorem selSlot_raiseIllegal (y : Sel) : selSlot (raiseIllegal s) y = selSlot s y := by cases y <;> rfl

@[simp] theorem selSlot_seedAppend (b : Byte) (y : Sel) : selSlot (seedAppend s b) y = selSlot s y := by
  cases y <;> rfl

@[simp] theorem selSlot_seedClear (y : Sel) : selSlot (seedClear s) y = selSlot s y := by cases y <;> rfl

@[simp] theorem selSlot_csrWrite (c : Csr) (n : Half) (y : Sel) : selSlot (csrWrite s c n) y = selSlot s y := by
  cases c <;> cases y <;> rfl

@[simp] theorem selSlot_resetBlock (y : Sel) : selSlot (resetBlock s) y = none := by cases y <;> rfl

@[simp] theorem selSlot_buildContext_senc :
    selSlot (buildContext s) .senc = some (freshStream (selWord s.seed)) := rfl

@[simp] theorem selSlot_buildContext_sdec :
    selSlot (buildContext s) .sdec = some (freshStream (selWord s.seed)) := rfl

@[simp] theorem selSlot_buildContext_sx0 : selSlot (buildContext s) .sx0 = s.sx0 := rfl

@[simp] theorem selSlot_buildContext_sx1 : selSlot (buildContext s) .sx1 = s.sx1 := rfl

/-! The fields of a register through seeding and advancing. -/

@[simp] theorem freshStream_cur (w : Dword) : (freshStream w).cur = w := rfl
@[simp] theorem freshStream_w0 (w : Dword) : (freshStream w).w0 = w := rfl
@[simp] theorem freshStream_draws (w : Dword) : (freshStream w).draws = 0 := rfl
@[simp] theorem advance_cur (st : Stream) : (advance st).cur = Config.prngStep st.cur := rfl
@[simp] theorem advance_w0 (st : Stream) : (advance st).w0 = st.w0 := rfl
@[simp] theorem advance_draws (st : Stream) : (advance st).draws = st.draws + 1 := rfl

end Sys2Proof.Machine
end

