-- ==== Sys2Proof/Laws/Memory.lean ====
section
/-! SUPPORT. Pad memory: what a read gives after a write, and that every write keeps the canonical form. -/

namespace Sys2Proof.Machine

variable {m : List Host.Cell} {a b : Nat} {v : Byte}

/-- A read after a write to the same address gives the value written. -/
theorem cellRead_cellWrite_same (m : List Host.Cell) (a : Nat) (v : Byte) :
    cellRead (cellWrite m a v) a = some v := by
  induction m with
  | nil => simp [cellWrite, cellRead]
  | cons c m ih =>
    simp only [cellWrite]
    split
    · simp [cellRead]
    · split
      · simp [cellRead]
      · simp [cellRead, *]

/-- A write leaves every other address alone. -/
theorem cellRead_cellWrite_of_ne (m : List Host.Cell) (v : Byte) (h : b ≠ a) :
    cellRead (cellWrite m a v) b = cellRead m b := by
  induction m with
  | nil => simp [cellWrite, cellRead, h.symm]
  | cons c m ih =>
    simp only [cellWrite]
    split
    · simp [cellRead, h.symm]
    · split
      · next hc => subst hc; simp [cellRead, h.symm]
      · simp [cellRead, ih]

theorem cellRead_cellWrite (m : List Host.Cell) (a : Nat) (v : Byte) (b : Nat) :
    cellRead (cellWrite m a v) b = if b = a then some v else cellRead m b := by
  split
  · next h => subst h; exact cellRead_cellWrite_same m b v
  · next h => exact cellRead_cellWrite_of_ne m v h

/-- A cell of the memory after a write is the cell written or was there before. -/
theorem mem_cellWrite {c : Host.Cell} (h : c ∈ cellWrite m a v) : c = (a, v) ∨ c ∈ m := by
  induction m with
  | nil => simpa [cellWrite] using h
  | cons d m ih =>
    simp only [cellWrite] at h
    split at h
    · simpa using h
    · split at h
      · rcases List.mem_cons.mp h with h | h
        · exact .inl h
        · exact .inr (List.mem_cons_of_mem _ h)
      · rcases List.mem_cons.mp h with h | h
        · exact .inr (h ▸ List.mem_cons_self)
        · exact (ih h).imp_right (List.mem_cons_of_mem _)

theorem cellWrite_pairwise (h : m.Pairwise fun c d => c.1 < d.1) :
    (cellWrite m a v).Pairwise fun c d => c.1 < d.1 := by
  induction m with
  | nil => simp [cellWrite]
  | cons c m ih =>
    rw [List.pairwise_cons] at h
    simp only [cellWrite]
    split
    · next hlt =>
      refine List.pairwise_cons.mpr ⟨fun d hd => ?_, List.pairwise_cons.mpr h⟩
      rcases List.mem_cons.mp hd with rfl | hd
      · exact hlt
      · exact Nat.lt_trans hlt (h.1 d hd)
    · split
      · next he => subst he; exact List.pairwise_cons.mpr ⟨fun d hd => h.1 d hd, h.2⟩
      · next hge hne =>
        refine List.pairwise_cons.mpr ⟨fun d hd => ?_, ih h.2⟩
        rcases mem_cellWrite hd with rfl | hd
        · exact Nat.lt_of_le_of_ne (Nat.le_of_not_lt hge) hne
        · exact h.1 d hd

/-- One write inside the address space keeps the canonical form. -/
theorem cellWrite_wf (h : Memory.wf m) (ha : a < 2 ^ 25) : Memory.wf (cellWrite m a v) :=
  ⟨cellWrite_pairwise h.1, fun c hc => by
    rcases mem_cellWrite hc with rfl | hc
    · exact ha
    · exact h.2 c hc⟩

@[simp] theorem cellsWrite_nil (m : List Host.Cell) : cellsWrite m [] = m := rfl

@[simp] theorem cellsWrite_cons (m : List Host.Cell) (w : BitVec 25 × Byte) (ws : List (BitVec 25 × Byte)) :
    cellsWrite m (w :: ws) = cellsWrite (cellWrite m w.1.toNat w.2) ws := rfl

theorem cellsWrite_append (m : List Host.Cell) (ws vs : List (BitVec 25 × Byte)) :
    cellsWrite m (ws ++ vs) = cellsWrite (cellsWrite m ws) vs := by
  simp [cellsWrite]

/-- A sequence of writes keeps the canonical form. -/
theorem cellsWrite_wf (h : Memory.wf m) (ws : List (BitVec 25 × Byte)) : Memory.wf (cellsWrite m ws) := by
  induction ws generalizing m with
  | nil => exact h
  | cons w ws ih => exact ih (cellWrite_wf h w.1.isLt)

/-- A sequence of writes leaves alone every address it does not write. -/
theorem cellRead_cellsWrite_of_not_mem (m : List Host.Cell) (ws : List (BitVec 25 × Byte)) (b : BitVec 25)
    (h : ∀ w ∈ ws, w.1 ≠ b) : cellRead (cellsWrite m ws) b.toNat = cellRead m b.toNat := by
  induction ws generalizing m with
  | nil => rfl
  | cons w ws ih =>
    rw [cellsWrite_cons, ih _ fun u hu => h u (List.mem_cons_of_mem _ hu)]
    refine cellRead_cellWrite_of_ne m w.2 fun he => h w List.mem_cons_self ?_
    exact BitVec.eq_of_toNat_eq he.symm

/-- A sequence of writes in which every write to an address stores the same value leaves that value there, if it
writes the address at all. -/
theorem cellRead_cellsWrite_of_mem (m : List Host.Cell) (ws : List (BitVec 25 × Byte)) (b : BitVec 25) (v : Byte)
    (hm : (b, v) ∈ ws) (h : ∀ w ∈ ws, w.1 = b → w.2 = v) : cellRead (cellsWrite m ws) b.toNat = some v := by
  induction ws generalizing m with
  | nil => cases hm
  | cons w ws ih =>
    rw [cellsWrite_cons]
    by_cases ht : (b, v) ∈ ws
    · exact ih _ ht fun u hu => h u (List.mem_cons_of_mem _ hu)
    · have hw : w = (b, v) := by
        rcases List.mem_cons.mp hm with hm | hm
        · exact hm.symm
        · exact absurd hm ht
      rw [cellRead_cellsWrite_of_not_mem _ ws b, hw, cellRead_cellWrite_same]
      intro u hu hub
      refine ht ?_
      have := h u (List.mem_cons_of_mem _ hu) hub
      rwa [← hub, ← this]

/-- The reset memory has the canonical form. -/
theorem reset_padMem_wf : Memory.wf State.reset.padMem := by decide

/-- A read depends on pad memory alone. -/
theorem memRead_congr {s t : State} (h : t.padMem = s.padMem) (x : BitVec 25) : memRead t x = memRead s x := by
  rw [memRead, memRead, h]

theorem padByte_congr {s t : State} (h : t.padMem = s.padMem) (d : Dir) (p : Half) (x : Byte) :
    padByte s d p x = cellRead t.padMem (padAddr d p x).toNat := by
  rw [padByte, memRead, h]

end Sys2Proof.Machine
end

