-- ==== Sys2Proof/Laws/Ops.lean ====
section
/-! SUPPORT. What each shared operation and each command can do, said once: if it answers a next state, then one of
the cases listed. -/

namespace Sys2Proof.Machine

variable {s t : State} {x : Sel} {b : Byte} {i : Instr}

theorem ifLegal_of_wf (h : i.wf = true) (r : Result) : ifLegal i s r = r := by simp [ifLegal, h]

theorem ifLegal_of_not_wf (h : i.wf = false) (r : Result) : ifLegal i s r = .next (raiseIllegal s) := by
  simp [ifLegal, h]

theorem ifLegal_next {r : Result} (h : ifLegal i s r = .next t) :
    (i.wf = true ∧ r = .next t) ∨ (i.wf = false ∧ t = raiseIllegal s) := by
  cases hw : i.wf with
  | true => exact .inl ⟨rfl, by rwa [ifLegal_of_wf hw] at h⟩
  | false =>
    rw [ifLegal_of_not_wf hw] at h
    cases h
    exact .inr ⟨rfl, rfl⟩

/-- What a draw-and-substitute can do where it answers a next state. -/
theorem substitute_next {d : Dir} (h : substitute d x b s = .next t) :
    (s.phase = .empty ∧ t = raise .stateError (phaseInfo s) s) ∨
    (s.phase = .active ∧ selSlot s x = none ∧ t = raise .selectorInvalid (selInfo x) s) ∨
    (∃ st c, s.phase = .active ∧ selSlot s x = some st ∧ s.numPads ≠ 0#16 ∧
      memRead s (cipherAddr d s st b) = some c ∧ t = respond (0#8 ++ c) (setSel s x (advance st))) := by
  unfold substitute at h
  split at h
  · next hp => cases h; exact .inl ⟨hp, rfl⟩
  · next hp =>
    have hp : s.phase = .active := by cases hq : s.phase <;> simp_all
    split at h
    · next hx => cases h; exact .inr (.inl ⟨hp, hx, rfl⟩)
    · next st hx =>
      split at h
      · cases h
      · next hn =>
        split at h
        · cases h
        · next c hc => cases h; exact .inr (.inr ⟨st, c, hp, hx, hn, hc, rfl⟩)

/-- A command of a direction naming a register it may name is well formed. -/
theorem cipherInstr_wf {d : Dir} (h : mayName d x = true) (b : Byte) : (cipherInstr d x b).wf = true := by
  cases d <;> exact h

/-- The meaning of ENC and DEC, said once for both directions. -/
theorem exec_cipherInstr {d : Dir} (h : mayName d x = true) (b : Byte) (s : State) :
    exec (cipherInstr d x b) s = substitute d x b s := by
  cases d <;> exact ifLegal_of_wf (cipherInstr_wf h b) _

/-- The effects of the commands that end with code OK: the state whose response is still to be returned, and the data
of that response. -/
inductive OkEffect : Instr → State → State → Half → Prop where
  | nop (s : State) : OkEffect .nop s s 0#16
  | seedb (s : State) (b : Byte) : s.seed.length ≠ Config.seedMax → OkEffect (.seedb b) s (seedAppend s b) 0#16
  | seedclr (s : State) : OkEffect .seedclr s (seedClear s) 0#16
  | rdcsr (s : State) (c : Csr) : OkEffect (.rdcsr c) s s (csrRead s c)
  | wrcsr (s : State) (c : Csr) (n : Half) :
    (Instr.wrcsr c n).wf = true → s.phase = .empty → OkEffect (.wrcsr c n) s (csrWrite s c n) 0#16
  | init (s : State) :
    s.phase = .empty → causeMask s = 0#16 → s.qubits = supportedWidth → OkEffect .init s (buildContext s) 0#16
  | mksel (s : State) (x : Sel) :
    (Instr.mksel x).wf = true → s.seed ≠ [] →
      OkEffect (.mksel x) s (setSel s x (freshStream (selWord s.seed))) 0#16
  | enc (s : State) (x : Sel) (b : Byte) (st : Stream) (c : Byte) :
    (Instr.enc x b).wf = true → s.phase = .active → selSlot s x = some st → s.numPads ≠ 0#16 →
      memRead s (cipherAddr .fwd s st b) = some c → OkEffect (.enc x b) s (setSel s x (advance st)) (0#8 ++ c)
  | dec (s : State) (x : Sel) (b : Byte) (st : Stream) (c : Byte) :
    (Instr.dec x b).wf = true → s.phase = .active → selSlot s x = some st → s.numPads ≠ 0#16 →
      memRead s (cipherAddr .inv s st b) = some c → OkEffect (.dec x b) s (setSel s x (advance st)) (0#8 ++ c)
  | destroy (s : State) : OkEffect .destroy s (resetBlock s) 0#16

/-- What a command can do where it answers a next state: raise one fault, or have its effect and respond. -/
theorem exec_next (h : exec i s = .next t) :
    (∃ f n, t = raise f n s) ∨ (∃ u d, OkEffect i s u d ∧ t = respond d u) := by
  have hphase : s.phase ≠ .active → s.phase = .empty := fun hp => by cases hq : s.phase <;> simp_all
  cases i with
  | nop => cases h; exact .inr ⟨_, _, .nop s, rfl⟩
  | seedb b =>
    change execSeedb b s = _ at h
    unfold execSeedb at h
    split at h
    · cases h; exact .inl ⟨_, _, rfl⟩
    · next hl => cases h; exact .inr ⟨_, _, .seedb s b hl, rfl⟩
  | seedclr => cases h; exact .inr ⟨_, _, .seedclr s, rfl⟩
  | rdcsr c =>
    change execRdcsr c s = _ at h
    unfold execRdcsr at h
    rcases ifLegal_next h with ⟨-, h⟩ | ⟨-, rfl⟩
    · cases h; exact .inr ⟨_, _, .rdcsr s c, rfl⟩
    · exact .inl ⟨_, _, rfl⟩
  | wrcsr c n =>
    change execWrcsr c n s = _ at h
    unfold execWrcsr at h
    rcases ifLegal_next h with ⟨hw, h⟩ | ⟨-, rfl⟩
    · split at h
      · cases h; exact .inl ⟨_, _, rfl⟩
      · next hp => cases h; exact .inr ⟨_, _, .wrcsr s c n hw (hphase hp), rfl⟩
    · exact .inl ⟨_, _, rfl⟩
  | init =>
    change execInit s = _ at h
    unfold execInit at h
    split at h
    · cases h; exact .inl ⟨_, _, rfl⟩
    · next hp =>
      split at h
      · cases h; exact .inl ⟨_, _, rfl⟩
      · next hc =>
        split at h
        · cases h; exact .inl ⟨_, _, rfl⟩
        · next hq => cases h; exact .inr ⟨_, _, .init s (hphase hp) (not_not.mp hc) (not_not.mp hq), rfl⟩
  | mksel x =>
    change execMksel x s = _ at h
    unfold execMksel at h
    rcases ifLegal_next h with ⟨hw, h⟩ | ⟨-, rfl⟩
    · split at h
      · cases h; exact .inl ⟨_, _, rfl⟩
      · next hs => cases h; exact .inr ⟨_, _, .mksel s x hw hs, rfl⟩
    · exact .inl ⟨_, _, rfl⟩
  | enc x b =>
    change execEnc x b s = _ at h
    unfold execEnc at h
    rcases ifLegal_next h with ⟨hw, h⟩ | ⟨-, rfl⟩
    · rcases substitute_next h with ⟨-, rfl⟩ | ⟨-, -, rfl⟩ | ⟨st, c, hp, hx, hn, hc, rfl⟩
      · exact .inl ⟨_, _, rfl⟩
      · exact .inl ⟨_, _, rfl⟩
      · exact .inr ⟨_, _, .enc s x b st c hw hp hx hn hc, rfl⟩
    · exact .inl ⟨_, _, rfl⟩
  | dec x b =>
    change execDec x b s = _ at h
    unfold execDec at h
    rcases ifLegal_next h with ⟨hw, h⟩ | ⟨-, rfl⟩
    · rcases substitute_next h with ⟨-, rfl⟩ | ⟨-, -, rfl⟩ | ⟨st, c, hp, hx, hn, hc, rfl⟩
      · exact .inl ⟨_, _, rfl⟩
      · exact .inl ⟨_, _, rfl⟩
      · exact .inr ⟨_, _, .dec s x b st c hw hp hx hn hc, rfl⟩
    · exact .inl ⟨_, _, rfl⟩
  | destroy => cases h; exact .inr ⟨_, _, .destroy s, rfl⟩

/-- What a word can do where it answers a next state. -/
theorem performWord_next {w : Word} (h : performWord w s = .next t) :
    (decode w = none ∧ t = raiseIllegal s) ∨ (∃ i, decode w = some i ∧ exec i s = .next t) := by
  unfold performWord at h
  split at h
  · next i hi => exact .inr ⟨i, hi, h⟩
  · next hi => cases h; exact .inl ⟨hi, rfl⟩

/-- What a step can do where it answers a next state. -/
theorem step_next (h : step s = .next t) :
    (s.inbox = [] ∧ t = s) ∨
    (∃ rest, s.inbox = .reset :: rest ∧ t = resetBlock { s with inbox := rest }) ∨
    (∃ w rest, s.inbox = .word w :: rest ∧ performWord w { s with inbox := rest } = .next t) := by
  unfold step portStep at h
  split at h
  · next hi => cases h; exact .inl ⟨hi, rfl⟩
  · next e rest hi =>
    cases e with
    | reset => cases h; exact .inr (.inl ⟨rest, hi, rfl⟩)
    | word w => exact .inr (.inr ⟨w, rest, hi, h⟩)

/-- A run of one event more. -/
theorem performEvents_cons {e : HostEvent} {es : List HostEvent} (h : performEvent e s = .next t) :
    performEvents (e :: es) s = performEvents es t := by
  simp [performEvents, h]

end Sys2Proof.Machine
end

