-- ==== Sys2Proof/Laws/PerInstr.lean ====
section
/-! SUPPORT. Per instruction: the three fields of its word are its opcode byte, its register operand and its immediate
(spec/30_encoding.md R91, R93). -/

namespace Sys2Proof.Laws

/-- The fields of the word of an instruction. -/
def EncodeFields.Statement (i : Instr) : Prop :=
  opField (encode i) = opcodeOf i ∧ aField (encode i) = aOf i ∧ immField (encode i) = immOf i

/-- The fields of any word assembled from three fields. -/
theorem encode_fields (i : Instr) : EncodeFields.Statement i := by
  simp [EncodeFields.Statement, encode]

theorem EncodeFields.nop : EncodeFields.Statement .nop := encode_fields _
theorem EncodeFields.seedb (b : Byte) : EncodeFields.Statement (.seedb b) := encode_fields _
theorem EncodeFields.seedclr : EncodeFields.Statement .seedclr := encode_fields _
theorem EncodeFields.rdcsr (csr : Csr) : EncodeFields.Statement (.rdcsr csr) := encode_fields _
theorem EncodeFields.wrcsr (csr : Csr) (n : Half) : EncodeFields.Statement (.wrcsr csr n) := encode_fields _
theorem EncodeFields.init : EncodeFields.Statement .init := encode_fields _
theorem EncodeFields.mksel (sel : Sel) : EncodeFields.Statement (.mksel sel) := encode_fields _
theorem EncodeFields.enc (sel : Sel) (b : Byte) : EncodeFields.Statement (.enc sel b) := encode_fields _
theorem EncodeFields.dec (sel : Sel) (b : Byte) : EncodeFields.Statement (.dec sel b) := encode_fields _
theorem EncodeFields.destroy : EncodeFields.Statement .destroy := encode_fields _

end Sys2Proof.Laws
end

