-- ==== Sys2Proof/Tests/Slice0.lean ====
section
/-! SUPPORT. Tests of the model on small states, with the numbers of spec/95_test_vectors.md, and for every statement
with hypotheses a state and operands that meet them. -/

namespace Sys2Proof.Tests

open Sys2Proof.Machine

/-! ### Well-formedness: one ill-formed term per check (spec/30_encoding.md R95) -/

theorem test_wf_refuses_wrcsr_status : (Instr.wrcsr .status 0#16).wf = false := by decide
theorem test_wf_refuses_wrcsr_seedlen : (Instr.wrcsr .seedlen 1#16).wf = false := by decide
theorem test_wf_refuses_wrcsr_id : (Instr.wrcsr .id 0x0807#16).wf = false := by decide
theorem test_wf_refuses_wrcsr_qubits_256 : (Instr.wrcsr .qubits 256#16).wf = false := by decide
theorem test_wf_refuses_mksel_senc : (Instr.mksel .senc).wf = false := by decide
theorem test_wf_refuses_mksel_sdec : (Instr.mksel .sdec).wf = false := by decide
theorem test_wf_refuses_enc_sdec : (Instr.enc .sdec 0#8).wf = false := by decide
theorem test_wf_refuses_dec_senc : (Instr.dec .senc 0#8).wf = false := by decide

/-! ### Decoding: words written out from R91 and R93, eight bits of `op`, eight of `a`, sixteen of `imm` -/

theorem test_decode_nop : decode 0b00000000000000000000000000000000#32 = some .nop := by decide
theorem test_decode_seedb : decode 0b00000001000000000000000011111111#32 = some (.seedb 255#8) := by decide
theorem test_decode_seedclr : decode 0b00000010000000000000000000000000#32 = some .seedclr := by decide
theorem test_decode_rdcsr : decode 0b00000011000001000000000000000000#32 = some (.rdcsr .id) := by decide
theorem test_decode_rdcsr_status : decode 0b00000011000000000000000000000000#32 = some (.rdcsr .status) := by decide
theorem test_decode_wrcsr_numpads :
    decode 0b00000100000000010000010000000000#32 = some (.wrcsr .numpads 1024#16) := by decide
theorem test_decode_wrcsr_qubits :
    decode 0b00000100000000100000000011111111#32 = some (.wrcsr .qubits 255#16) := by decide
theorem test_decode_init : decode 0b00010000000000000000000000000000#32 = some .init := by decide
theorem test_decode_mksel : decode 0b00010001000000100000000000000000#32 = some (.mksel .sx0) := by decide
theorem test_decode_enc : decode 0b00100000000000000000000001101000#32 = some (.enc .senc 0x68#8) := by decide
theorem test_decode_enc_sx1 : decode 0b00100000000000110000000011111111#32 = some (.enc .sx1 0xFF#8) := by decide
theorem test_decode_dec : decode 0b00100001000000010000000000101100#32 = some (.dec .sdec 0x2C#8) := by decide
theorem test_decode_destroy : decode 0b00111111000000000000000000000000#32 = some .destroy := by decide

/-- The illegal words of spec/95_test_vectors.md section 2, items 1 to 4 of R95. -/
theorem test_decode_refuses_items_1_to_4 :
    [0xFFFFFFFF#32, 0x05000000#32, 0x12000000#32, 0x22000000#32, 0x80000000#32, 0x00000001#32, 0x02000001#32,
      0x10000001#32, 0x3F000001#32, 0x01000100#32, 0x01010000#32, 0x03050000#32, 0x03000001#32].all
      (fun w => decode w == none) = true := by decide

/-- Items 5 to 8 of R95. -/
theorem test_decode_refuses_items_5_to_8 :
    [0x04000000#32, 0x04030001#32, 0x04020100#32, 0x11000000#32, 0x11010000#32, 0x20010000#32, 0x20040000#32,
      0x20000100#32, 0x21000000#32].all (fun w => decode w == none) = true := by decide

theorem test_encode_words :
    encode (.wrcsr .numpads 0xFFFF#16) = 0x0401FFFF#32 ∧ encode (.dec .sx1 0x7A#8) = 0x2103007A#32 ∧
    encode (.seedb 0x6B#8) = 0x0100006B#32 ∧ encode (.mksel .sx1) = 0x11030000#32 := by decide

/-! ### States for the tests -/

/-- Pad memory of one pad, `Shuffle(0)` under the default generator: the rotation `T[x] = x + 1` and its inverse
(spec/41_pad_generator.md R154). -/
def rotationPads : List Host.Cell :=
  (List.range 256).map (fun x => (x, BitVec.ofNat 8 (x + 1)))
    ++ (List.range 256).map (fun x => (2 ^ 24 + x, BitVec.ofNat 8 (x + 255)))

/-- An EMPTY block set up for INIT: a seed of one byte, one pad, width 8. -/
def configured : State := { State.reset with seed := [0x6B#8], numPads := 1#16, qubits := 8#8 }

/-- An ACTIVE block with the one rotation pad; `sx0` is not valid. -/
def active : State :=
  { configured with
    senc := some (freshStream 1#64), sdec := some (freshStream 1#64), sx1 := some (freshStream 2#64)
    padMem := rotationPads, phase := .active }

/-- A block whose seed buffer is full. -/
def full : State := { State.reset with seed := List.replicate Config.seedMax 0#8 }

theorem fwd_read : ∀ b : Byte, cellRead rotationPads (padAddr .fwd 0#16 b).toNat = some (b + 1#8) := by decide +kernel
theorem inv_read : ∀ b : Byte, cellRead rotationPads (padAddr .inv 0#16 b).toNat = some (b + 255#8) := by
  decide +kernel

theorem drawIndex_one (st : Stream) : drawIndex 1#16 st = 0#16 := by simp [drawIndex, Nat.mod_one]

/-- A block whose pads and parameters are those of `active`. -/
def RotationBlock (s : State) : Prop := s.phase = .active ∧ s.numPads = 1#16 ∧ s.padMem = rotationPads

theorem active_rotation : RotationBlock active := ⟨rfl, rfl, rfl⟩

/-- ENC and DEC in such a block: the index is 0 whatever the generator, so the tables are known. -/
theorem substitute_rotation {s : State} (h : RotationBlock s) {x : Sel} {st : Stream} (hx : selSlot s x = some st)
    (b : Byte) :
    substitute .fwd x b s = .next (respond (0#8 ++ (b + 1#8)) (setSel s x (advance st))) ∧
    substitute .inv x b s = .next (respond (0#8 ++ (b + 255#8)) (setSel s x (advance st))) := by
  obtain ⟨hp, hn, hm⟩ := h
  have hr : ∀ d, memRead s (cipherAddr d s st b) = cellRead rotationPads (padAddr d 0#16 b).toNat := fun d => by
    rw [memRead, cipherAddr, hn, drawIndex_one, hm]
  constructor
  · simp [substitute, hp, hx, hn, hr, fwd_read]
  · simp [substitute, hp, hx, hn, hr, inv_read]

theorem enc_rotation {s : State} (h : RotationBlock s) {x : Sel} {st : Stream} (hx : selSlot s x = some st)
    (hs : x ≠ .sdec) (b : Byte) :
    exec (.enc x b) s = .next (respond (0#8 ++ (b + 1#8)) (setSel s x (advance st))) := by
  rw [exec, execEnc, ifLegal_of_wf (by simp [Instr.wf, hs]), (substitute_rotation h hx b).1]

theorem dec_rotation {s : State} (h : RotationBlock s) {x : Sel} {st : Stream} (hx : selSlot s x = some st)
    (hs : x ≠ .senc) (b : Byte) :
    exec (.dec x b) s = .next (respond (0#8 ++ (b + 255#8)) (setSel s x (advance st))) := by
  rw [exec, execDec, ifLegal_of_wf (by simp [Instr.wf, hs]), (substitute_rotation h hx b).2]

theorem rotation_next {s : State} (h : RotationBlock s) (x : Sel) (st : Stream) (d : Half) :
    RotationBlock (respond d (setSel s x st)) := by
  simpa [RotationBlock] using h

/-! ### One or two small steps per command -/

theorem test_nop : exec .nop active = .next { active with responses := [0x00000000#32] } := rfl
theorem test_seedb : exec (.seedb 0x6B#8) State.reset =
    .next { State.reset with seed := [0x6B#8], responses := [0x00000000#32] } := by
  simp [exec, execSeedb, Config.seedMax]; rfl
theorem test_seedclr : exec .seedclr active = .next { active with seed := [], responses := [0x00000000#32] } := rfl
theorem test_rdcsr_id : exec (.rdcsr .id) State.reset = .next { State.reset with responses := [0x00000807#32] } := rfl
theorem test_rdcsr_status : exec (.rdcsr .status) active = .next { active with responses := [0x000000B1#32] } := rfl
theorem test_wrcsr_numpads : exec (.wrcsr .numpads 65535#16) State.reset =
    .next { State.reset with numPads := 0xFFFF#16, responses := [0x00000000#32] } := rfl
theorem test_wrcsr_while_active : exec (.wrcsr .numpads 4#16) active =
    .next { active with err := 4#4, responses := [0x40000001#32] } := rfl
theorem test_init_while_active : exec .init active =
    .next { active with err := 4#4, responses := [0x40000001#32] } := rfl
theorem test_init_width_before_context : exec .init { configured with qubits := 4#8 } =
    .next { configured with qubits := 4#8, err := 2#4, responses := [0x20000004#32] } := rfl
theorem test_mksel_empty_seed : exec (.mksel .sx0) State.reset =
    .next { State.reset with err := 1#4, responses := [0x10000001#32] } := rfl
theorem test_mksel_while_active : exec (.mksel .sx0) active =
    .next { active with
      sx0 := some ⟨selWord [0x6B#8], selWord [0x6B#8], 0⟩, responses := [0x00000000#32] } := rfl
theorem test_enc_not_valid : exec (.enc .sx0 0x41#8) active =
    .next { active with err := 6#4, responses := [0x60000002#32] } := rfl
theorem test_enc_byte : exec (.enc .senc 0x00#8) active =
    .next { active with
      senc := some ⟨Config.prngStep 1#64, 1#64, 1⟩, responses := [0x00000001#32] } := by
  rw [enc_rotation active_rotation rfl (by decide)]; rfl
theorem test_dec_byte : exec (.dec .sdec 0x00#8) active =
    .next { active with
      sdec := some ⟨Config.prngStep 1#64, 1#64, 1⟩, responses := [0x000000FF#32] } := by
  rw [dec_rotation active_rotation rfl (by decide)]; rfl
theorem test_dec_phase_first : exec (.dec .sx1 0x00#8) State.reset =
    .next { State.reset with err := 4#4, responses := [0x40000000#32] } := rfl
theorem test_destroy : exec .destroy active = .next { State.reset with responses := [0x00000000#32] } := rfl
theorem test_step_illegal_word : step (State.reset.withFetchWord 32 0xFFFFFFFF) =
    .next { State.reset with err := 3#4, responses := [0x30000000#32] } := rfl

/-! ### Primitives, pads, reference functions, script -/

/-- Section 3: five draws from the state 1. -/
theorem test_xorshift_from_one :
    (List.range 5).map (fun k => xorshiftOut (xorshiftStep^[k + 1] 1#64)) =
      [0x00000000#32, 0x10004106#32, 0x9B1E842F#32, 0xF554F503#32, 0x860C1FB0#32] := by decide +kernel

/-- Section 4: the first sixteen entries of `Shuffle(1)`. -/
theorem test_shuffle_of_one :
    (shuffleWith xorshiftStep xorshiftOut 1#64).toList.take 16 =
      [72#8, 152#8, 32#8, 247#8, 246#8, 166#8, 194#8, 18#8, 16#8, 52#8, 133#8, 154#8, 98#8, 135#8, 180#8, 113#8] := by
  decide +kernel

/-- Section 5: the bytes of a label, and `le64` with the first byte lowest. -/
theorem test_label_and_le64 :
    padLabel 1023 = [0x51#8, 0x50#8, 0x50#8, 0x5F#8, 0x31#8, 0x30#8, 0x32#8, 0x33#8] ∧
    le64 [0x9c#8, 0xca#8, 0x09#8, 0x8b#8, 0xbc#8, 0x58#8, 0x5e#8, 0xc2#8] = 0xC25E58BC8B09CA9C#64 := by
  decide +kernel

/-- SHA-256 of "abc" (spec/46_reference_kdf.md). -/
theorem test_sha256_abc :
    sha256 [0x61#8, 0x62#8, 0x63#8] =
      [0xba#8, 0x78#8, 0x16#8, 0xbf#8, 0x8f#8, 0x01#8, 0xcf#8, 0xea#8, 0x41#8, 0x41#8, 0x40#8, 0xde#8, 0x5d#8, 0xae#8,
        0x22#8, 0x23#8, 0xb0#8, 0x03#8, 0x61#8, 0xa3#8, 0x96#8, 0x17#8, 0x7a#8, 0x9c#8, 0xb4#8, 0x10#8, 0xff#8, 0x61#8,
        0xf2#8, 0x00#8, 0x15#8, 0xad#8] := by decide +kernel

/-- Section 2: the word of a script line. -/
theorem test_assemble_line :
    assembleLine "dec sx1, 0x7A   ; a comment".toList = some [0x2103007A#32] := by decide +kernel

/-- R99: an operand outside its range is refused. -/
theorem test_assemble_refuses : assembleLine "wrcsr qubits, 256".toList = none := by decide +kernel

/-! ### Witnesses: states and operands that meet the hypotheses of the statements -/

theorem configured_inv : StateInv configured where
  seed_fits := by show 1 ≤ Config.seedMax; unfold Config.seedMax; omega
  active_config := by intro h; cases h
  active_builtins := by intro h; cases h
  empty_builtins := fun _ => ⟨rfl, rfl⟩
  active_pads := by intro h; cases h
  empty_pads := fun _ => rfl
  err_range := by decide
  mem_wf := by decide
  streams := by intro x st h; cases x <;> cases h

theorem add_one_255 : ∀ b : Byte, b + 1#8 + 255#8 = b ∧ b + 255#8 + 1#8 = b := by decide

theorem active_pads : PadsInverse active := by
  intro p hp x
  have hp : p = 0#16 := BitVec.eq_of_toNat_eq (by simp only [active, configured] at hp; simpa using hp)
  subst hp
  have hf : ∀ b, padByte active .fwd 0#16 b = some (b + 1#8) := fwd_read
  have hi : ∀ b, padByte active .inv 0#16 b = some (b + 255#8) := inv_read
  exact ⟨⟨_, hf x, by rw [hi, (add_one_255 x).1]⟩, ⟨_, hi x, by rw [hf, (add_one_255 x).2]⟩⟩

theorem active_mem_wf : Memory.wf active.padMem := by
  show Memory.wf rotationPads
  constructor
  · rw [rotationPads, List.pairwise_append, List.pairwise_map, List.pairwise_map]
    refine ⟨List.pairwise_lt_range, List.pairwise_lt_range.imp fun h => Nat.add_lt_add_left h _, ?_⟩
    intro c hc d hd
    simp only [List.mem_map, List.mem_range] at hc hd
    obtain ⟨x, hx, rfl⟩ := hc
    obtain ⟨y, hy, rfl⟩ := hd
    show x < 2 ^ 24 + y
    omega
  · intro c hc
    simp only [rotationPads, List.mem_append, List.mem_map, List.mem_range] at hc
    obtain ⟨x, hx, rfl⟩ | ⟨x, hx, rfl⟩ := hc
    · show x < 2 ^ 25
      omega
    · show 2 ^ 24 + x < 2 ^ 25
      omega

theorem active_inv : StateInv active where
  seed_fits := by show 1 ≤ Config.seedMax; unfold Config.seedMax; omega
  active_config := fun _ => ⟨by decide, rfl⟩
  active_builtins := fun _ => ⟨rfl, rfl⟩
  empty_builtins := by intro h; cases h
  active_pads := fun _ => active_pads
  empty_pads := by intro h; cases h
  err_range := by decide
  mem_wf := active_mem_wf
  streams := by
    intro x st h
    cases x <;> first | (cases h; rfl) | cases h

theorem witness_DecodeEncodeRoundTrip :
    (Instr.wrcsr .qubits 255#16).wf = true ∧ (Instr.enc .sx1 0xFF#8).wf = true ∧ (Instr.mksel .sx0).wf = true := by
  decide

theorem witness_EncodeDecodeRoundTrip : decode 0x040200FF#32 = some (.wrcsr .qubits 255#16) := by decide

theorem witness_IllegalWordsExactly : ∃ (op a : Byte) (imm : Half),
    op = (0x04020100#32).extractLsb' 24 8 ∧ a = (0x04020100#32).extractLsb' 16 8 ∧
    imm = (0x04020100#32).extractLsb' 0 16 ∧ decode 0x04020100#32 = none := ⟨_, _, _, rfl, rfl, rfl, by decide⟩

theorem witness_IllFormedTermsAreIllegalCommands :
    (Instr.wrcsr .qubits 256#16).wf = false ∧ (Instr.wrcsr .id 0#16).wf = false ∧ (Instr.mksel .sdec).wf = false ∧
    (Instr.enc .sdec 0#8).wf = false ∧ (Instr.dec .senc 0xFF#8).wf = false := by decide

theorem witness_StepRunsDecodedInstruction :
    decode 0x20030041#32 = some (.enc .sx1 0x41#8) ∧ decode 0x20040000#32 = none := by decide

theorem witness_IdleStepKeepsState : active.inbox = [] := rfl

theorem witness_NopOnlyResponds :
    (0x00000001#32).extractLsb' 24 8 = 0x00#8 ∧ 0x00000001#32 ≠ 0x00000000#32 ∧
    (0x00FF0000#32).extractLsb' 24 8 = 0x00#8 ∧ 0x00FF0000#32 ≠ 0x00000000#32 := by decide

theorem seedMax_pos : 0 < Config.seedMax := by unfold Config.seedMax; omega

theorem witness_SeedbAppendsOrOverflows_words :
    (0x01000100#32).extractLsb' 24 8 = 0x01#8 ∧ (0x01000100#32).extractLsb' 8 8 ≠ 0#8 ∧
    (0x01010000#32).extractLsb' 24 8 = 0x01#8 ∧ (0x01010000#32).extractLsb' 16 8 ≠ 0#8 := by decide

/-- One byte short of full, and full. -/
theorem witness_SeedbAppendsOrOverflows :
    ({ State.reset with seed := List.replicate (Config.seedMax - 1) 0#8 } : State).seed.length ≠ Config.seedMax ∧
    full.seed.length = Config.seedMax := by
  have := seedMax_pos
  constructor
  · simp; omega
  · simp [full]

theorem witness_RdcsrReturnsRegister : full.seed.length ≤ Config.seedMax := by simp [full]

theorem witness_RdcsrReturnsRegister_words :
    (0x03050000#32).extractLsb' 24 8 = 0x03#8 ∧ 4 < ((0x03050000#32).extractLsb' 16 8).toNat ∧
    (0x03040001#32).extractLsb' 24 8 = 0x03#8 ∧ (0x03040001#32).extractLsb' 0 16 ≠ 0#16 := by decide

theorem witness_WrcsrWritesOrFaults :
    configured.phase = .empty ∧ active.phase = .active ∧ (255#16).toNat < 256 := by decide

/-- CSR 0, CSR 3 and the value 256 for QUBITS. -/
theorem witness_WrcsrWritesOrFaults_words :
    (0x04000000#32).extractLsb' 24 8 = 0x04#8 ∧ (0x04000000#32).extractLsb' 16 8 ≠ 1#8 ∧
    (0x04000000#32).extractLsb' 16 8 ≠ 2#8 ∧ (0x04030001#32).extractLsb' 24 8 = 0x04#8 ∧
    (0x04030001#32).extractLsb' 16 8 ≠ 1#8 ∧ (0x04030001#32).extractLsb' 16 8 ≠ 2#8 ∧
    (0x04020100#32).extractLsb' 24 8 = 0x04#8 ∧ (0x04020100#32).extractLsb' 16 8 = 2#8 ∧
    (0x04020100#32).extractLsb' 8 8 ≠ 0#8 := by decide

theorem witness_InitFaultsInOrder_activePhase : active.phase = .active := rfl

/-- Each cause alone. -/
theorem witness_InitFaultsInOrder_causes :
    ({ configured with seed := [] } : State).phase = .empty ∧ ({ configured with seed := [] } : State).seed = [] ∧
    ({ configured with numPads := 0#16 } : State).numPads = 0#16 ∧
    ({ configured with qubits := 0#8 } : State).qubits = 0#8 := by decide

/-- The widths 1, 7, 9 and 255. -/
theorem witness_InitFaultsInOrder_width : ∀ q ∈ [1#8, 7#8, 9#8, 255#8],
    ({ configured with qubits := q } : State).phase = .empty ∧ ({ configured with qubits := q } : State).seed ≠ [] ∧
    ({ configured with qubits := q } : State).numPads ≠ 0#16 ∧ ({ configured with qubits := q } : State).qubits ≠ 0#8 ∧
    ({ configured with qubits := q } : State).qubits ≠ 8#8 := by
  intro q hq
  simp only [List.mem_cons, List.not_mem_nil, or_false] at hq
  rcases hq with rfl | rfl | rfl | rfl <;> decide

/-- One pad and the most pads. -/
theorem witness_InitBuildsContext : ∀ n ∈ [1#16, 0xFFFF#16],
    ({ configured with numPads := n } : State).phase = .empty ∧ ({ configured with numPads := n } : State).seed ≠ [] ∧
    ({ configured with numPads := n } : State).numPads ≠ 0#16 ∧
    ({ configured with numPads := n } : State).qubits = 8#8 := by
  intro n hn
  simp only [List.mem_cons, List.not_mem_nil, or_false] at hn
  rcases hn with rfl | rfl <;> decide

/-- The address of the last byte of pad 0's inverse table, and an address of no pad below NUMPADS. -/
theorem witness_InitBuildsContext_frame :
    (0#16).toNat < configured.numPads.toNat ∧
    ∀ (d : Dir) (p : Half) (x : Byte), p.toNat < configured.numPads.toNat → padAddr .inv 1#16 0#8 ≠ padAddr d p x := by
  refine ⟨by decide, fun d p x hp h => ?_⟩
  have hp : p = 0#16 := BitVec.eq_of_toNat_eq (by simp only [configured] at hp; simpa using hp)
  subst hp
  have hb := congrArg (fun v => v.getLsbD 8) h
  simp only [padAddr, BitVec.getLsbD_append] at hb
  simp at hb

/-- A word performed is the meaning of the instruction it decodes to. -/
theorem perform_of_decode {w : Word} {i : Instr} (h : decode w = some i) (s : State) :
    performWord w s = exec i s := by
  simp [performWord, h]

theorem perform_event {w : Word} {i : Instr} (h : decode w = some i) (s : State) :
    performEvent (.word w) s = exec i s := perform_of_decode h s

/-- `configured` with another number of pads. -/
def configuredWith (n : Half) : State := { configured with numPads := n }

theorem init_configured (n : Half) (h : n ≠ 0#16) :
    exec .init (configuredWith n) = .next (respond 0#16 (buildContext (configuredWith n))) := by
  have hp : (configuredWith n).phase ≠ .active := by simp [configuredWith, configured, State.reset]
  have hc : causeMask (configuredWith n) = 0#16 := by simp [causeMask, bit, configuredWith, configured, h]
  have hq : (configuredWith n).qubits = supportedWidth := rfl
  simp [exec, execInit, hp, hc, hq]

/-- One pad against two, from one seed. -/
theorem witness_InitIsDeterministic : ∃ s₁ s₂ t₁ t₂ : State, s₁.seed = s₂.seed ∧ s₁.phase = .empty ∧
    s₂.phase = .empty ∧ exec .init s₁ = .next t₁ ∧ t₁.phase = .active ∧ exec .init s₂ = .next t₂ ∧
    t₂.phase = .active ∧ (0#16).toNat < s₁.numPads.toNat ∧ (0#16).toNat < s₂.numPads.toNat ∧
    s₁.numPads ≠ s₂.numPads :=
  ⟨configuredWith 1#16, configuredWith 2#16, _, _, rfl, rfl, rfl, init_configured 1#16 (by decide),
    by rw [respond_phase, buildContext_phase], init_configured 2#16 (by decide),
    by rw [respond_phase, buildContext_phase], by decide, by decide, by decide⟩

theorem witness_InverseTableInverts : Function.Bijective (entry identityTable) := by
  refine Finite.injective_iff_bijective.mp fun x y h => ?_
  simpa [entry, identityTable] using h

/-- The first and the last pad of the largest pad set. -/
theorem witness_InverseTableInverts_afterInit :
    (configuredWith 0xFFFF#16).phase = .empty ∧ (configuredWith 0xFFFF#16).seed ≠ [] ∧
    (configuredWith 0xFFFF#16).numPads ≠ 0#16 ∧ (configuredWith 0xFFFF#16).qubits = 8#8 ∧
    (0#16).toNat < (configuredWith 0xFFFF#16).numPads.toNat ∧
    (65534#16).toNat < (configuredWith 0xFFFF#16).numPads.toNat := by decide

theorem witness_PadLabelsDistinct : padLabel 65534 = padLabel 65534 := rfl

theorem witness_DecIsShortestNumeral : (10 : Nat) ≠ 0 ∧ 0x30#8 ∈ dec 10 := by decide

theorem witness_MkselSeedsExternalSlot :
    (Sel.sx1 = .sx0 ∨ Sel.sx1 = .sx1) ∧ configured.seed ≠ [] ∧ State.reset.seed = [] ∧
    (0x11010000#32).extractLsb' 24 8 = 0x11#8 ∧ 0x11010000#32 ≠ 0x11020000#32 ∧ 0x11010000#32 ≠ 0x11030000#32 := by
  decide

theorem witness_DrawIndexBelowNumPads : 1#16 ≠ 0#16 ∧ 0xFFFF#16 ≠ 0#16 := by decide

theorem witness_StreamStateAfterDraws : 1#16 ≠ 0#16 ∧ 0xFFFF#16 ≠ 0#16 := by decide

/-- Two states of one register, drawn with different bytes: by ENC in both, by ENC and DEC, and by DEC in both, of
which the last names `sdec`. -/
theorem witness_DrawnStateIgnoresNumPads : ∃ t₁ t₂ t₃ u₁ u₂, active.phase = .active ∧
    selSlot active .sx1 = selSlot { active with senc := none } .sx1 ∧
    mayName .fwd .sx1 = true ∧ mayName .inv .sx1 = true ∧
    exec (cipherInstr .fwd .sx1 0x00#8) active = .next t₁ ∧
    exec (cipherInstr .fwd .sx1 0xFF#8) { active with senc := none } = .next t₂ ∧
    exec (cipherInstr .inv .sx1 0xFF#8) { active with senc := none } = .next t₃ ∧
    selSlot active .sdec = selSlot { active with senc := none } .sdec ∧ mayName .inv .sdec = true ∧
    exec (cipherInstr .inv .sdec 0x00#8) active = .next u₁ ∧
    exec (cipherInstr .inv .sdec 0xFF#8) { active with senc := none } = .next u₂ :=
  ⟨_, _, _, _, _, rfl, rfl, rfl, rfl, enc_rotation active_rotation rfl (by decide) _,
    enc_rotation ⟨rfl, rfl, rfl⟩ rfl (by decide) _, dec_rotation ⟨rfl, rfl, rfl⟩ rfl (by decide) _, rfl, rfl,
    dec_rotation active_rotation rfl (by decide) _, dec_rotation ⟨rfl, rfl, rfl⟩ rfl (by decide) _⟩

/-- Each of the five cases, in order. -/
theorem witness_SelectorChangesOnlyAsStated : ∃ t₁ t₂ t₃ t₄ t₅,
    performWord 0x00000000#32 active = .next t₁ ∧ performWord 0x10000000#32 (configuredWith 1#16) = .next t₂ ∧
    performWord 0x11020000#32 active = .next t₃ ∧ performWord 0x20000041#32 active = .next t₄ ∧
    performWord 0x3F000000#32 active = .next t₅ :=
  ⟨_, _, _, _, _, rfl, (perform_of_decode (by decide) _).trans (init_configured 1#16 (by decide)), rfl,
    (perform_of_decode (by decide) _).trans (enc_rotation (x := .senc) active_rotation rfl (by decide) 0x41#8), rfl⟩

theorem witness_EncReadsForwardTable : ∃ c, Sel.sx1 ≠ .sdec ∧ active.phase = .active ∧
    selSlot active .sx1 = some (freshStream 2#64) ∧ active.numPads ≠ 0#16 ∧
    memRead active (padAddr .fwd
      (BitVec.ofNat 16 ((Config.prngOut32 (Config.prngStep 2#64)).toNat % active.numPads.toNat)) 0xFF#8) = some c := by
  refine ⟨0x00#8, by decide, rfl, rfl, by decide, ?_⟩
  have h : BitVec.ofNat 16 ((Config.prngOut32 (Config.prngStep 2#64)).toNat % active.numPads.toNat) = 0#16 :=
    drawIndex_one (freshStream 2#64)
  rw [h]
  exact fwd_read 0xFF#8

theorem witness_DecReadsInverseTable : ∃ c, Sel.sx1 ≠ .senc ∧ active.phase = .active ∧
    selSlot active .sx1 = some (freshStream 2#64) ∧ active.numPads ≠ 0#16 ∧
    memRead active (padAddr .inv
      (BitVec.ofNat 16 ((Config.prngOut32 (Config.prngStep 2#64)).toNat % active.numPads.toNat)) 0x00#8) = some c := by
  refine ⟨0xFF#8, by decide, rfl, rfl, by decide, ?_⟩
  have h : BitVec.ofNat 16 ((Config.prngOut32 (Config.prngStep 2#64)).toNat % active.numPads.toNat) = 0#16 :=
    drawIndex_one (freshStream 2#64)
  rw [h]
  exact inv_read 0x00#8

theorem witness_CipherFaultsInOrder :
    Sel.sx1 ≠ .sdec ∧ Sel.sx1 ≠ .senc ∧ configured.phase = .empty ∧ active.phase = .active ∧
    selSlot active .sx0 = none ∧ Sel.sx0 ≠ .sdec ∧ Sel.sx0 ≠ .senc ∧ StateInv active :=
  ⟨by decide, by decide, rfl, rfl, rfl, by decide, by decide, active_inv⟩

/-- `enc sdec`, ENC with `a = 4`, ENC and DEC with a high immediate byte, `dec senc`. -/
theorem witness_CipherFaultsInOrder_words :
    (0x20010000#32).extractLsb' 24 8 = 0x20#8 ∧ (0x20010000#32).extractLsb' 16 8 ∉ [0#8, 2#8, 3#8] ∧
    (0x20040000#32).extractLsb' 24 8 = 0x20#8 ∧ (0x20040000#32).extractLsb' 16 8 ∉ [0#8, 2#8, 3#8] ∧
    (0x20000100#32).extractLsb' 24 8 = 0x20#8 ∧ (0x20000100#32).extractLsb' 8 8 ≠ 0#8 ∧
    (0x21000000#32).extractLsb' 24 8 = 0x21#8 ∧ (0x21000000#32).extractLsb' 16 8 ∉ [1#8, 2#8, 3#8] ∧
    (0x21010100#32).extractLsb' 24 8 = 0x21#8 ∧ (0x21010100#32).extractLsb' 8 8 ≠ 0#8 := by decide

theorem witness_CipherPermutesDataByte :
    StateInv active ∧ active.phase = .active ∧ selValid active .sx1 = true ∧ Sel.sx1 ≠ .sdec ∧ Sel.sx1 ≠ .senc :=
  ⟨active_inv, rfl, rfl, by decide, by decide⟩

theorem witness_CipherClosedForm : ∃ idx : Half, StateInv active ∧ active.phase = .active ∧
    selSlot active .sx1 = some (freshStream 2#64) ∧ Sel.sx1 ≠ .sdec ∧ Sel.sx1 ≠ .senc ∧
    idx = BitVec.ofNat 16 ((Config.prngOut32 (Config.prngStep^[(freshStream 2#64).draws + 1] (freshStream 2#64).w0)).toNat
      % active.numPads.toNat) :=
  ⟨_, active_inv, rfl, rfl, by decide, by decide, rfl⟩

/-- `sx1` may be named in both directions, `senc` and `sdec` in one each; the string of one byte has the position 0. -/
theorem witness_ChunkBoundaryTransparency : StateInv active ∧ active.phase = .active ∧
    mayName .fwd .sx1 = true ∧ mayName .inv .sx1 = true ∧ mayName .fwd .senc = true ∧ mayName .inv .sdec = true ∧
    selSlot active .sx1 = some (freshStream 2#64) ∧ selSlot active .senc = some (freshStream 1#64) ∧
    selSlot active .sdec = some (freshStream 1#64) ∧ 0 < [0x41#8].length :=
  ⟨active_inv, rfl, rfl, rfl, rfl, rfl, rfl, rfl, rfl, by decide⟩

/-- One byte, then no byte, in each direction. -/
theorem witness_ChunkBoundaryTransparency_pieces : ∃ t u,
    performEvents (cipherEvents .fwd .sx1 [0x41#8]) active = .next t ∧
    performEvents (cipherEvents .fwd .sx1 []) t = .next t ∧
    performEvents (cipherEvents .inv .sx1 [0x41#8]) active = .next u ∧
    performEvents (cipherEvents .inv .sx1 []) u = .next u := by
  have he : performEvent (.word (encode (.enc .sx1 0x41#8))) active = exec (.enc .sx1 0x41#8) active :=
    perform_event (by decide) _
  have hd : performEvent (.word (encode (.dec .sx1 0x41#8))) active = exec (.dec .sx1 0x41#8) active :=
    perform_event (by decide) _
  exact ⟨_, _, performEvents_cons (he.trans (enc_rotation active_rotation rfl (by decide) _)), rfl,
    performEvents_cons (hd.trans (dec_rotation active_rotation rfl (by decide) _)), rfl⟩

/-- `active` after the host has sent SEEDCLR. -/
def seedless : State := { active with seed := [] }

theorem seedless_inv : StateInv seedless where
  seed_fits := Nat.zero_le _
  active_config := active_inv.active_config
  active_builtins := active_inv.active_builtins
  empty_builtins := active_inv.empty_builtins
  active_pads := active_inv.active_pads
  empty_pads := active_inv.empty_pads
  err_range := active_inv.err_range
  mem_wf := active_inv.mem_wf
  streams := active_inv.streams

theorem streamRun_cons {x : Sel} {e : HostEvent} {es : List HostEvent} {s u : State} (he : performEvent e s = .next u)
    (hc : usesStream x e = true ∨ spares x e = true ∨ RaisesFault e s) (hu : StreamRun x es u) :
    StreamRun x (e :: es) s :=
  ⟨hc, fun t ht => by rw [he] at ht; cases ht; exact hu⟩

/-- An MKSEL naming the register that faults for want of a seed, an INIT while ACTIVE, an illegal word, an NOP, a
decryption that names another register and fails, and an ENC of the run. -/
theorem witness_InterleavedWordsDoNotDisturbStream : StateInv seedless ∧ seedless.phase = .active ∧
    StreamRun .sx1 [.word 0x11030000#32, .word 0x10000000#32, .word 0xFFFFFFFF#32, .word 0x00000000#32,
      .word 0x21020041#32, .word 0x20030041#32] seedless := by
  refine ⟨seedless_inv, rfl, ?_⟩
  refine streamRun_cons rfl (.inr (.inr ⟨_, 0x10000001#32, rfl, rfl, by decide⟩)) ?_
  refine streamRun_cons rfl (.inr (.inl (by decide))) ?_
  refine streamRun_cons rfl (.inr (.inl (by decide))) ?_
  refine streamRun_cons rfl (.inr (.inl (by decide))) ?_
  refine streamRun_cons rfl (.inr (.inl (by decide))) ?_
  exact ⟨.inl (by decide), fun _ _ => trivial⟩

theorem witness_RoundTripBetweenPeers : StateInv active ∧ active.phase = .active ∧ Sel.senc ≠ .sdec ∧
    Sel.sdec ≠ .senc ∧ selSlot active .senc = some (freshStream 1#64) ∧
    selSlot active .sdec = some (freshStream 1#64) ∧ (freshStream 1#64).w0 = (freshStream 1#64).w0 ∧
    (∀ (d : Dir) (p : Half) (x : Byte), p.toNat < active.numPads.toNat → padByte active d p x = padByte active d p x) :=
  ⟨active_inv, rfl, by decide, by decide, rfl, rfl, rfl, fun _ _ _ _ => rfl⟩

theorem witness_RoundTripAfterInit : StateInv configured ∧ configured.phase = .empty ∧ configured.seed ≠ [] ∧
    configured.numPads ≠ 0#16 ∧ configured.qubits = 8#8 := ⟨configured_inv, rfl, by decide, by decide, rfl⟩

theorem witness_NewSequenceBuildsContext : StateInv configured ∧ configured.phase = .empty ∧
    List.replicate Config.seedMax 0x6B#8 ≠ [] ∧ (List.replicate Config.seedMax 0x6B#8).length ≤ Config.seedMax ∧
    0xFFFF#16 ≠ 0#16 := by
  refine ⟨configured_inv, rfl, fun h => ?_, by simp, by decide⟩
  have := seedMax_pos
  simp at h
  omega

/-- While ACTIVE, and while EMPTY by a command that is not INIT. -/
theorem witness_PadMemoryImmutable : ∃ t u,
    performWord 0x10000000#32 active = .next t ∧ decode 0x10000000#32 ≠ some .destroy ∧ active.phase = .active ∧
    performWord 0x11020000#32 configured = .next u ∧ decode 0x11020000#32 ≠ some .destroy ∧
    decode 0x11020000#32 ≠ some .init := ⟨_, _, rfl, by decide, rfl, rfl, by decide, by decide⟩

theorem witness_StepKeepsMemoryForm : ∃ t, Memory.wf active.padMem ∧
    step { active with inbox := [.word 0x00000000#32] } = .next t := ⟨_, active_mem_wf, rfl⟩

theorem witness_SeedBufferChangesOnlyByItsCommands : ∃ t, performWord 0x11020000#32 active = .next t ∧
    decode 0x11020000#32 ≠ some .destroy ∧ (∀ b, decode 0x11020000#32 ≠ some (.seedb b)) ∧
    decode 0x11020000#32 ≠ some .seedclr := ⟨_, rfl, by decide, by decide, by decide⟩

/-- A WRCSR while ACTIVE, and another command while EMPTY. -/
theorem witness_ParametersFrozenWhileActive : ∃ t u,
    performWord 0x04010004#32 active = .next t ∧ decode 0x04010004#32 ≠ some .destroy ∧ active.phase = .active ∧
    performWord 0x02000000#32 configured = .next u ∧ decode 0x02000000#32 ≠ some .destroy ∧
    ∀ c n, decode 0x02000000#32 ≠ some (.wrcsr c n) := by
  refine ⟨_, _, rfl, by decide, rfl, rfl, by decide, fun c n h => ?_⟩
  have : decode 0x02000000#32 = some .seedclr := by decide
  rw [this] at h
  cases h

/-- A word that faults and a word that does not. -/
theorem witness_FaultChangesOnlyErr : ∃ t u, performWord 0xFFFFFFFF#32 active = .next t ∧
    (0x30000000#32).extractLsb' 28 4 ≠ 0#4 ∧ performWord 0x03040000#32 active = .next u :=
  ⟨_, _, rfl, by decide, rfl⟩

/-- SEEDB: the buffer full. -/
theorem witness_FaultsOfEachCommand_seedb : ∃ t r, (Instr.seedb 0xAA#8).wf = true ∧
    exec (.seedb 0xAA#8) full = .next t ∧ t.responses = full.responses ++ [r] ∧ r.extractLsb' 28 4 ≠ 0#4 := by
  have hl : full.seed.length = Config.seedMax := by simp [full]
  have hc : ∀ n : Half, (responseWord 5#4 n).extractLsb' 28 4 ≠ 0#4 := fun n h => by
    have h30 := congrArg (fun v => v.getLsbD 2) h
    rw [responseWord] at h30
    simp only [BitVec.getLsbD_extractLsb', BitVec.getLsbD_append] at h30
    simp at h30
  exact ⟨raise .seedOverflow (seedLen full) full, responseWord 5#4 (seedLen full), rfl,
    by simp [exec, execSeedb, hl], rfl, hc _⟩

/-- WRCSR and INIT while ACTIVE, INIT and MKSEL without a seed, INIT with width 4, ENC and DEC while EMPTY and with a slot not valid. -/
theorem witness_FaultsOfEachCommand : ∀ p ∈ [(Instr.wrcsr .numpads 4#16, active, 0x40000001#32),
      (.init, active, 0x40000001#32), (.init, State.reset, 0x10000007#32), (.mksel .sx1, State.reset, 0x10000001#32),
      (.init, { configured with qubits := 4#8 }, 0x20000004#32),
      (.enc .senc 0#8, State.reset, 0x40000000#32), (.dec .sx0 0#8, active, 0x60000002#32)],
    ∃ t, p.1.wf = true ∧ exec p.1 p.2.1 = .next t ∧ t.responses = p.2.1.responses ++ [p.2.2] ∧
      p.2.2.extractLsb' 28 4 ≠ 0#4 := by
  intro p hp
  simp only [List.mem_cons, List.not_mem_nil, or_false] at hp
  rcases hp with rfl | rfl | rfl | rfl | rfl | rfl | rfl <;> exact ⟨_, rfl, rfl, rfl, by decide⟩

/-- A fault, a success and DESTROY. -/
theorem witness_ErrIsSticky : ∃ t u v,
    performWord 0x00000001#32 active = .next t ∧ t.responses = active.responses ++ [0x30000000#32] ∧
    performWord 0x00000000#32 active = .next u ∧ u.responses = active.responses ++ [0x00000000#32] ∧
    performWord 0x3F000000#32 active = .next v ∧ v.responses = active.responses ++ [0x00000000#32] :=
  ⟨_, _, _, rfl, rfl, rfl, rfl, rfl, rfl⟩

/-- A reset, DESTROY, INIT while ACTIVE, INIT that fails and INIT that succeeds, another command. -/
theorem witness_PhaseMachine : ∃ t u v w x y,
    performEvent .reset active = .next t ∧ performEvent (.word 0x3F000000#32) active = .next u ∧
    performEvent (.word 0x10000000#32) active = .next v ∧ performEvent (.word 0x10000000#32) State.reset = .next w ∧
    performEvent (.word 0x10000000#32) (configuredWith 1#16) = .next x ∧
    performEvent (.word 0x02000000#32) active = .next y :=
  ⟨_, _, _, _, _, _, rfl, rfl, rfl, rfl, (perform_event (by decide) _).trans (init_configured 1#16 (by decide)),
    rfl⟩

/-- Two blocks with different seeds and different register contents, one command of each kind the conclusion names. -/
theorem witness_SecretsDoNotReachResponses : ∃ t₁ t₂ u₁ u₂,
    SamePublic active { active with seed := [0x73#8], senc := some (freshStream 7#64) } ∧
    exec (.rdcsr .status) active = .next t₁ ∧
    exec (.rdcsr .status) { active with seed := [0x73#8], senc := some (freshStream 7#64) } = .next t₂ ∧
    exec (.enc .senc 0#8) active = .next u₁ ∧
    exec (.enc .senc 0#8) { active with seed := [0x73#8], senc := some (freshStream 7#64) } = .next u₂ ∧
    ∀ x b, Instr.rdcsr .status ≠ .enc x b ∧ Instr.rdcsr .status ≠ .dec x b :=
  ⟨_, _, _, _, ⟨rfl, fun x => by cases x <;> rfl, rfl, rfl, rfl, rfl⟩, rfl, rfl,
    enc_rotation active_rotation rfl (by decide) 0#8, enc_rotation ⟨rfl, rfl, rfl⟩ rfl (by decide) 0#8,
    by simp⟩

theorem witness_StepKeepsInvariants : ∃ t, StateInv active ∧ step active = .next t := ⟨_, active_inv, rfl⟩

theorem witness_StepNeverStops : StateInv active := active_inv

theorem witness_RunsCompleteWithOneResponsePerWord : StateInv active := active_inv

theorem witness_ReachableStatesSatisfyInvariants :
    Reachable { State.reset with err := 3#4, responses := [0x30000000#32] } :=
  .step _ _ (.present _ (.word 0xFFFFFFFF#32) .reset) rfl

end Sys2Proof.Tests
end

section
/-! PROOFS of the statements of spec/00_scope.md: the step of the command port and the decimal numeral `dec(i)`. -/

namespace Sys2Proof.Proofs

open Sys2Proof.Machine

/-! ### The step -/

section Step

variable {w : Word} {i : Instr} (s : State)

/-- With a word presented first, a step takes it and performs it (R10, R318). -/
theorem step_word (w : Word) (rest : List HostEvent) :
    step { s with inbox := .word w :: rest } = performWord w { s with inbox := rest } := rfl

theorem step_word_of_decode (h : decode w = some i) (rest : List HostEvent) :
    step { s with inbox := .word w :: rest } = exec i { s with inbox := rest } := by
  simp only [step_word, performWord, h]

/-- An illegal word sets ERR to 3 and is answered by the one response word (R95, R265). -/
theorem performWord_of_illegal (h : decode w = none) :
    performWord w s = .next { s with err := 3#4, responses := s.responses ++ [0x30000000#32] } := by
  have hword : responseWord (faultNumber .illegalCommand) 0#16 = 0x30000000#32 := by decide
  simp only [performWord, h, raiseIllegal, raise, hword]
  rfl

end Step

/-- Settles O7: the step is `performWord` of the word taken, and `decode` decides what that is. -/
theorem stepRunsDecodedInstruction : Obligations.StepRunsDecodedInstruction := by
  intro s w rest
  exact ⟨fun i h => step_word_of_decode s h rest,
    fun h => (step_word s w rest).trans (performWord_of_illegal _ h)⟩

/-! ### The decimal numeral -/

section Numeral

variable {fuel i d : Nat}

theorem decDigits_of_lt_ten (h : i < 10) : decDigits (fuel + 1) i = [BitVec.ofNat 8 (48 + i)] := by
  simp [decDigits, h]

theorem decDigits_of_ten_le (h : 10 ≤ i) :
    decDigits (fuel + 1) i = decDigits fuel (i / 10) ++ [BitVec.ofNat 8 (48 + i % 10)] := by
  simp [decDigits, Nat.not_lt.mpr h]

/-- Fuel above the number is enough, and more of it changes nothing. -/
theorem decDigits_fuel_irrel {fuel' : Nat} (h : i < fuel) (h' : i < fuel') :
    decDigits fuel i = decDigits fuel' i := by
  induction fuel generalizing fuel' i with
  | zero => omega
  | succ f ih =>
    obtain ⟨g, rfl⟩ : ∃ g, fuel' = g + 1 := ⟨fuel' - 1, by omega⟩
    by_cases hi : i < 10
    · rw [decDigits_of_lt_ten hi, decDigits_of_lt_ten hi]
    · have hi : 10 ≤ i := Nat.le_of_not_lt hi
      rw [decDigits_of_ten_le hi, decDigits_of_ten_le hi, ih (fuel' := g) (by omega) (by omega)]

theorem dec_of_lt_ten (h : i < 10) : dec i = [BitVec.ofNat 8 (48 + i)] := decDigits_of_lt_ten h

theorem dec_of_ten_le (h : 10 ≤ i) : dec i = dec (i / 10) ++ [BitVec.ofNat 8 (48 + i % 10)] := by
  rw [dec, decDigits_of_ten_le h, dec, decDigits_fuel_irrel (by omega) (Nat.lt_succ_self _)]

/-- Induction over numerals: one digit, or the numeral of `i / 10` and one digit more. -/
theorem dec_induction {P : Nat → List Byte → Prop}
    (digit : ∀ d < 10, P d [BitVec.ofNat 8 (48 + d)])
    (snoc : ∀ i ≥ 10, P (i / 10) (dec (i / 10)) → P i (dec (i / 10) ++ [BitVec.ofNat 8 (48 + i % 10)]))
    (i : Nat) : P i (dec i) := by
  induction i using Nat.strongRecOn with
  | ind i ih =>
    by_cases h : i < 10
    · rw [dec_of_lt_ten h]
      exact digit i h
    · have h : 10 ≤ i := Nat.le_of_not_lt h
      rw [dec_of_ten_le h]
      exact snoc i h (ih (i / 10) (by omega))

theorem asciiDigit_toNat (h : d < 10) : (BitVec.ofNat 8 (48 + d)).toNat = 48 + d := by
  rw [BitVec.toNat_ofNat]
  omega

/-- The digits of `dec i`, read in base 10, have the value `i`. -/
theorem dec_value (i : Nat) : (dec i).foldl (fun v b => 10 * v + (b.toNat - 48)) 0 = i := by
  induction i using dec_induction with
  | digit d h =>
    rw [List.foldl_cons, List.foldl_nil, asciiDigit_toNat h]
    omega
  | snoc i _ ih =>
    rw [List.foldl_append, ih, List.foldl_cons, List.foldl_nil, asciiDigit_toNat (Nat.mod_lt i (by omega))]
    omega

theorem dec_mem_ascii {b : Byte} (h : b ∈ dec i) : 48 ≤ b.toNat ∧ b.toNat ≤ 57 := by
  have last : ∀ d < 10, b ∈ [BitVec.ofNat 8 (48 + d)] → 48 ≤ b.toNat ∧ b.toNat ≤ 57 := by
    intro d hd hb
    rw [List.mem_singleton.mp hb, asciiDigit_toNat hd]
    omega
  induction i using dec_induction with
  | digit d hd => exact last d hd h
  | snoc i _ ih => exact (List.mem_append.mp h).elim ih (last _ (Nat.mod_lt i (by omega)))

/-- The numeral of a number other than 0 has a first digit, and that digit is not `0`. -/
theorem dec_head (h : i ≠ 0) : ∃ b, (dec i).head? = some b ∧ b ≠ 0x30#8 := by
  induction i using dec_induction with
  | digit d hd =>
    refine ⟨_, rfl, fun hb => h ?_⟩
    have hb := congrArg BitVec.toNat hb
    rw [asciiDigit_toNat hd] at hb
    exact Nat.add_left_cancel hb
  | snoc i hi ih =>
    obtain ⟨b, hb, hne⟩ := ih (by omega)
    exact ⟨b, by rw [List.head?_append, hb]; rfl, hne⟩

end Numeral

/-- Settles O25, by induction over the numeral: its value, the range of its bytes and its first digit. -/
theorem decIsShortestNumeral : Obligations.DecIsShortestNumeral := by
  refine ⟨dec_of_lt_ten (by omega), fun i => ⟨dec_value i, fun b hb => dec_mem_ascii hb, fun hi hzero => ?_⟩⟩
  obtain ⟨b, hb, hne⟩ := dec_head hi
  exact hne (Option.some.inj (hb.symm.trans hzero))

end Sys2Proof.Proofs
end

section
/-! PROOFS of the statements of spec/10_state.md: which words change which component, the invariants of R35 and R36,
and what the host can see of the state. -/

namespace Sys2Proof.Proofs

open Sys2Proof.Machine

/-! ### What a word can do, in two cases -/

section WordEffect

variable {w : Word} {i : Instr} {s t u : State} {d : Half}

/-- A word raises one fault, an illegal word's being IllegalCommand, or is a command that has its effect and responds. -/
theorem performWord_raises_or_responds (h : performWord w s = .next t) :
    (∃ f n, t = raise f n s) ∨ (∃ i u d, decode w = some i ∧ OkEffect i s u d ∧ t = respond d u) := by
  obtain ⟨-, rfl⟩ | ⟨i, hi, h⟩ := performWord_next h
  · exact .inl ⟨.illegalCommand, 0#16, rfl⟩
  · exact (exec_next h).imp_right fun ⟨u, d, he, ht⟩ => ⟨i, u, d, hi, he, ht⟩

theorem performWord_of_destroy (hd : decode w = some .destroy) (h : performWord w s = .next t) :
    t = respond 0#16 (resetBlock s) := by
  simp only [performWord, hd] at h
  cases h
  rfl

/-- An effect returns no response of its own. -/
theorem okEffect_responses (h : OkEffect i s u d) : u.responses = s.responses := by
  cases h <;> simp

theorem okEffect_err (h : OkEffect i s u d) (hd : i ≠ .destroy) : u.err = s.err := by
  cases h with
  | destroy => exact absurd rfl hd
  | _ => simp

theorem okEffect_seed (h : OkEffect i s u d) (hd : i ≠ .destroy) (hb : ∀ b, i ≠ .seedb b) (hc : i ≠ .seedclr) :
    u.seed = s.seed := by
  cases h with
  | seedb _ b => exact absurd rfl (hb b)
  | seedclr => exact absurd rfl hc
  | destroy => exact absurd rfl hd
  | _ => simp

theorem okEffect_parameters (h : OkEffect i s u d) (hd : i ≠ .destroy)
    (hw : s.phase = .active ∨ ∀ c n, i ≠ .wrcsr c n) : u.numPads = s.numPads ∧ u.qubits = s.qubits := by
  cases h with
  | wrcsr _ c n _ hp => simp [hp] at hw
  | destroy => exact absurd rfl hd
  | _ => simp

/-- The code of a response word is the one it was built with (spec/30_encoding.md R97). -/
theorem responseWord_code (c : BitVec 4) (d : Half) : (responseWord c d).extractLsb' 28 4 = c := by
  rw [responseWord, BitVec.extractLsb'_append_eq_of_le (by decide)]
  exact BitVec.extractLsb'_append_eq_left

theorem faultNumber_ne_zero (f : FaultCode) : faultNumber f ≠ 0#4 := by cases f <;> decide

theorem faultNumber_le_six (f : FaultCode) : (faultNumber f).toNat ≤ 6 := by cases f <;> decide

end WordEffect

/-- Settles O45: a fault leaves the seed buffer, and so does every effect but those of the three commands. -/
theorem seedBufferChangesOnlyByItsCommands : Obligations.SeedBufferChangesOnlyByItsCommands := by
  intro w s t h hd hb hc
  obtain ⟨f, n, rfl⟩ | ⟨i, u, d, hi, he, rfl⟩ := performWord_raises_or_responds h
  · rfl
  · rw [hi] at hd hb hc
    rw [respond_seed]
    exact okEffect_seed he (by simpa using hd) (by simpa using hb) (by simpa using hc)

/-- Settles O46: WRCSR has an effect only while EMPTY. -/
theorem parametersFrozenWhileActive : Obligations.ParametersFrozenWhileActive := by
  intro w s t h hd hw
  obtain ⟨f, n, rfl⟩ | ⟨i, u, d, hi, he, rfl⟩ := performWord_raises_or_responds h
  · exact ⟨rfl, rfl⟩
  · rw [hi] at hd hw
    rw [respond_numPads, respond_qubits]
    exact okEffect_parameters he (by simpa using hd) (by simpa using hw)

/-- Settles O49: the code of the response says whether the word raised a fault. -/
theorem errIsSticky : Obligations.ErrIsSticky := by
  intro w s t r h hr
  by_cases hd : decode w = some .destroy
  · rw [if_pos hd, performWord_of_destroy hd h, respond_err, resetBlock_err]
  rw [if_neg hd]
  obtain ⟨f, n, rfl⟩ | ⟨i, u, d, hi, he, rfl⟩ := performWord_raises_or_responds h
  · obtain rfl : responseWord (faultNumber f) n = r := by simpa using hr
    rw [responseWord_code, if_neg (faultNumber_ne_zero f), raise_err]
  · obtain rfl : responseWord 0#4 d = r := by simpa [okEffect_responses he] using hr
    rw [responseWord_code, if_pos rfl, respond_err]
    exact okEffect_err he fun hi' => hd (hi' ▸ hi)

/-! ### The selector registers -/

section Selectors

variable {i : Instr} {s u : State} {d : Half}

/-- What the effect of a command does to one register. -/
theorem okEffect_selSlot (h : OkEffect i s u d) (x : Sel) :
    selSlot u x = selSlot s x ∨
    (i = .init ∧ s.phase = .empty ∧ (x = .senc ∨ x = .sdec) ∧
      selSlot u x = some (freshStream (selWord s.seed))) ∨
    (i = .mksel x ∧ (x = .sx0 ∨ x = .sx1) ∧ selSlot u x = some (freshStream (selWord s.seed))) ∨
    (∃ b st, ((i = .enc x b ∧ x ≠ .sdec) ∨ (i = .dec x b ∧ x ≠ .senc)) ∧ selSlot s x = some st ∧
      selSlot u x = some (advance st)) ∨
    (i = .destroy ∧ selSlot u x = none) := by
  cases h with
  | nop | rdcsr => exact .inl rfl
  | seedb => exact .inl (selSlot_seedAppend ..)
  | seedclr => exact .inl (selSlot_seedClear ..)
  | wrcsr => exact .inl (selSlot_csrWrite ..)
  | init _ hp =>
    cases x with
    | senc => exact .inr (.inl ⟨rfl, hp, .inl rfl, rfl⟩)
    | sdec => exact .inr (.inl ⟨rfl, hp, .inr rfl, rfl⟩)
    | sx0 | sx1 => exact .inl rfl
  | mksel _ y hw =>
    obtain rfl | hxy := eq_or_ne x y
    · exact .inr (.inr (.inl ⟨rfl, by simpa [Instr.wf] using hw, selSlot_setSel_same ..⟩))
    · exact .inl (selSlot_setSel_of_ne _ hxy _)
  | enc _ y b st c hw _ hst =>
    obtain rfl | hxy := eq_or_ne x y
    · exact .inr (.inr (.inr (.inl ⟨b, st, .inl ⟨rfl, by simpa [Instr.wf] using hw⟩, hst, selSlot_setSel_same ..⟩)))
    · exact .inl (selSlot_setSel_of_ne _ hxy _)
  | dec _ y b st c hw _ hst =>
    obtain rfl | hxy := eq_or_ne x y
    · exact .inr (.inr (.inr (.inl ⟨b, st, .inr ⟨rfl, by simpa [Instr.wf] using hw⟩, hst, selSlot_setSel_same ..⟩)))
    · exact .inl (selSlot_setSel_of_ne _ hxy _)
  | destroy => exact .inr (.inr (.inr (.inr ⟨rfl, selSlot_resetBlock ..⟩)))

end Selectors

/-- Settles O31: a fault leaves every register, and `okEffect_selSlot` says what each command does. -/
theorem selectorChangesOnlyAsStated : Obligations.SelectorChangesOnlyAsStated := by
  intro w s t x h
  obtain ⟨f, n, rfl⟩ | ⟨i, u, d, hi, he, rfl⟩ := performWord_raises_or_responds h
  · exact .inl (selSlot_raise ..)
  · simp only [selSlot_respond, hi, Option.some.injEq]
    exact okEffect_selSlot he x

/-! ### The tables INIT builds -/

section Tables

variable {t : Table} {d d' : Dir} {p p' : Half} {x x' : Byte} {seed : List Byte}

/-- The shuffle only swaps entries (spec/41_pad_generator.md R145, R148). -/
theorem shuffleLoop_perm (step : Dword → Dword) (out32 : Dword → Word) (j : Nat) (hj : j < 256) (w : Dword)
    (t : Table) : (shuffleLoop step out32 j hj w t).Perm t := by
  induction j generalizing w t with
  | zero => exact .rfl
  | succ j ih => exact (ih _ _ _).trans (Vector.swap_perm _ _)

theorem identityTable_nodup : identityTable.toList.Nodup := by
  rw [identityTable, Vector.toList_ofFn, List.nodup_ofFn]
  intro a b h
  have h := congrArg BitVec.toNat h
  simp only [BitVec.toNat_ofNat] at h
  omega

theorem entry_injective_of_nodup (h : t.toList.Nodup) : Function.Injective (entry t) := by
  intro x y hxy
  have hlen : ∀ z : Byte, z.toNat < t.toList.length := fun z => by simpa using z.isLt
  have hxy : t.toList[x.toNat]'(hlen x) = t.toList[y.toNat]'(hlen y) := by simpa [entry] using hxy
  exact BitVec.eq_of_toNat_eq (h.getElem_inj_iff.mp hxy)

/-- Whatever the generator, no two bytes have the same entry in a shuffle. -/
theorem entry_shuffleWith_injective (step : Dword → Dword) (out32 : Dword → Word) (w : Dword) :
    Function.Injective (entry (shuffleWith step out32 w)) :=
  entry_injective_of_nodup
    ((shuffleLoop_perm step out32 255 (by decide) w identityTable).toList.nodup_iff.mpr identityTable_nodup)

theorem entry_padTable_bijective (seed : List Byte) (k : Nat) : Function.Bijective (entry (padTable seed k)) :=
  Finite.injective_iff_bijective.mp
    (entry_shuffleWith_injective Config.prngStep Config.prngOut32 (padWord seed k))

theorem bitVec_append_inj {m n : Nat} {a a' : BitVec m} {b b' : BitVec n} : a ++ b = a' ++ b' ↔ a = a' ∧ b = b' := by
  refine ⟨fun h => ⟨?_, ?_⟩, fun ⟨ha, hb⟩ => by rw [ha, hb]⟩
  · simpa only [BitVec.extractLsb'_append_eq_left] using congrArg (BitVec.extractLsb' n m) h
  · simpa only [BitVec.extractLsb'_append_eq_right] using congrArg (BitVec.extractLsb' 0 n) h

/-- The three fields of an address name it (spec/20_memory.md R61). -/
theorem padAddr_inj : padAddr d p x = padAddr d' p' x' ↔ d = d' ∧ p = p' ∧ x = x' := by
  have hdir : dirBit d = dirBit d' ↔ d = d' := by cases d <;> cases d' <;> decide
  rw [padAddr, padAddr, bitVec_append_inj, bitVec_append_inj, hdir, and_assoc]

/-- The writes of one pad: every entry forward, and every byte at its entry in the inverse table (R147). -/
theorem mem_padWrites {w : BitVec 25 × Byte} :
    w ∈ padWrites p t ↔
      (∃ x, w = (padAddr .fwd p x, entry t x)) ∨ (∃ x, w = (padAddr .inv p (entry t x), x)) := by
  have hbyte : ∀ k : Fin 256, entry t (BitVec.ofNat 8 k.val) = t[k] := fun k => by simp [entry]
  have hfin : ∀ f : Byte → BitVec 25 × Byte,
      (∃ k : Fin 256, f (BitVec.ofNat 8 k.val) = w) ↔ ∃ x, w = f x := fun f =>
    ⟨fun ⟨k, hk⟩ => ⟨_, hk.symm⟩, fun ⟨x, hx⟩ => ⟨x.toFin, by simp [hx]⟩⟩
  simp only [padWrites, List.mem_append, List.mem_map, List.mem_finRange, true_and, ← hbyte]
  rw [hfin fun x => (padAddr .fwd p x, entry t x), hfin fun x => (padAddr .inv p (entry t x), x)]

theorem mem_initWrites {n : Half} {w : BitVec 25 × Byte} :
    w ∈ initWrites seed n.toNat ↔ ∃ p : Half, p.toNat < n.toNat ∧ w ∈ padWrites p (padTable seed p.toNat) := by
  simp only [initWrites, List.mem_flatMap, List.mem_range]
  refine ⟨fun ⟨k, hk, hw⟩ => ⟨BitVec.ofNat 16 k, ?_⟩, fun ⟨p, hp, hw⟩ => ⟨p.toNat, hp, by simpa using hw⟩⟩
  rw [BitVec.toNat_ofNat, Nat.mod_eq_of_lt (Nat.lt_trans hk n.isLt)]
  exact ⟨hk, hw⟩

/-- INIT writes no address with two values, since no shuffle has an entry twice. -/
theorem initWrites_functional {n : Half} {a : BitVec 25} {v v' : Byte} (h : (a, v) ∈ initWrites seed n.toNat)
    (h' : (a, v') ∈ initWrites seed n.toNat) : v = v' := by
  obtain ⟨p, -, h⟩ := mem_initWrites.mp h
  obtain ⟨p', -, h'⟩ := mem_initWrites.mp h'
  simp only [mem_padWrites, Prod.mk.injEq] at h h'
  obtain ⟨x, hx, hv⟩ | ⟨x, hx, hv⟩ := h <;> obtain ⟨y, hy, hv'⟩ | ⟨y, hy, hv'⟩ := h' <;>
    obtain ⟨hd, rfl, he⟩ := padAddr_inj.mp (hx.symm.trans hy)
  · rw [hv, hv', he]
  · cases hd
  · cases hd
  · rw [hv, hv', (entry_padTable_bijective seed p.toNat).injective he]

theorem memRead_buildContext {s : State} {a : BitVec 25} {v : Byte}
    (h : (a, v) ∈ initWrites s.seed s.numPads.toNat) : memRead (buildContext s) a = some v := by
  rw [memRead, buildContext_padMem]
  refine cellRead_cellsWrite_of_mem _ _ a v h fun w hw ha => ?_
  obtain ⟨b, c⟩ := w
  obtain rfl : b = a := ha
  exact initWrites_functional hw h

theorem padByte_buildContext_fwd {s : State} {p : Half} (hp : p.toNat < s.numPads.toNat) (x : Byte) :
    padByte (buildContext s) .fwd p x = some (entry (padTable s.seed p.toNat) x) :=
  memRead_buildContext (mem_initWrites.mpr ⟨p, hp, mem_padWrites.mpr (.inl ⟨x, rfl⟩)⟩)

theorem padByte_buildContext_inv {s : State} {p : Half} (hp : p.toNat < s.numPads.toNat) (x : Byte) :
    padByte (buildContext s) .inv p (entry (padTable s.seed p.toNat) x) = some x :=
  memRead_buildContext (mem_initWrites.mpr ⟨p, hp, mem_padWrites.mpr (.inr ⟨x, rfl⟩)⟩)

/-- After INIT every pad is a bijection of the bytes with its inverse (R36 item 4). -/
theorem padsInverse_buildContext (s : State) : PadsInverse (buildContext s) := by
  intro p hp x
  rw [buildContext_numPads] at hp
  obtain ⟨z, rfl⟩ := (entry_padTable_bijective s.seed p.toNat).surjective x
  exact ⟨⟨_, padByte_buildContext_fwd hp _, padByte_buildContext_inv hp _⟩,
    ⟨z, padByte_buildContext_inv hp z, padByte_buildContext_fwd hp z⟩⟩

end Tables

/-! ### The invariants -/

section Invariants

variable {s t u : State} {i : Instr} {x : Sel} {v : Stream} {d : Half}

theorem padsInverse_congr (h : PadsInverse s) (hmem : t.padMem = s.padMem) (hn : t.numPads = s.numPads) :
    PadsInverse t := by
  have hbyte : ∀ d p x, padByte t d p x = padByte s d p x := fun d p x => memRead_congr hmem _
  simpa only [PadsInverse, hbyte, hn] using h

/-- The state's lists of events and responses are no part of the invariants, and of ERR only the range is. -/
theorem stateInv_frame (h : StateInv s) (herr : u.err.toNat ≤ 6)
    (hu : u = { s with err := u.err, inbox := u.inbox, responses := u.responses }) : StateInv u := by
  rw [hu]
  exact ⟨h.seed_fits, h.active_config, h.active_builtins, h.empty_builtins,
    fun hp => padsInverse_congr (h.active_pads hp) rfl rfl, h.empty_pads, herr, h.mem_wf, h.streams⟩

theorem stateInv_raise (h : StateInv s) (f : FaultCode) (n : Half) : StateInv (raise f n s) :=
  stateInv_frame h (faultNumber_le_six f) rfl

theorem stateInv_respond (h : StateInv s) (d : Half) : StateInv (respond d s) := stateInv_frame h h.err_range rfl

theorem stateInv_reset : StateInv State.reset where
  seed_fits := Nat.zero_le _
  active_config := nofun
  active_builtins := nofun
  empty_builtins := fun _ => ⟨rfl, rfl⟩
  active_pads := nofun
  empty_pads := fun _ => rfl
  err_range := by decide
  mem_wf := reset_padMem_wf
  streams := by intro x st h; cases x <;> cases h

theorem stateInv_resetBlock (s : State) : StateInv (resetBlock s) := stateInv_frame stateInv_reset (Nat.zero_le _) rfl

theorem stateInv_seedAppend (h : StateInv s) (hl : s.seed.length ≠ Config.seedMax) (b : Byte) :
    StateInv (seedAppend s b) :=
  { h with
    seed_fits := by
      have := h.seed_fits
      rw [seedAppend_seed, List.length_append, List.length_singleton]
      omega }

theorem stateInv_seedClear (h : StateInv s) : StateInv (seedClear s) := { h with seed_fits := Nat.zero_le _ }

/-- While EMPTY the parameters are free (R31, R32). -/
theorem stateInv_csrWrite (h : StateInv s) (hp : s.phase = .empty) (c : Csr) (n : Half) :
    StateInv (csrWrite s c n) := by
  have hne : (csrWrite s c n).phase ≠ .active := by simp [hp]
  exact {
    seed_fits := by simpa using h.seed_fits
    active_config := fun ha => absurd ha hne
    active_builtins := fun ha => absurd ha hne
    empty_builtins := fun _ => by simpa [selValid] using h.empty_builtins hp
    active_pads := fun ha => absurd ha hne
    empty_pads := fun _ => by simpa using h.empty_pads hp
    err_range := by simpa using h.err_range
    mem_wf := by simpa using h.mem_wf
    streams := fun x st hx => h.streams x st (by simpa using hx) }

theorem selValid_setSel (s : State) (x y : Sel) (v : Stream) :
    selValid (setSel s x v) y = (y == x || selValid s y) := by
  by_cases hxy : y = x
  · subst hxy
    simp [selValid]
  · simp [selValid, selSlot_setSel_of_ne s hxy, hxy]

/-- A register may take any value that keeps the law of R35, a built-in one while ACTIVE only. -/
theorem stateInv_setSel (h : StateInv s) (hx : s.phase = .empty → x ≠ .senc ∧ x ≠ .sdec)
    (hv : v.cur = Config.prngStep^[v.draws] v.w0) : StateInv (setSel s x v) where
  seed_fits := by simpa using h.seed_fits
  active_config := by simpa using h.active_config
  active_builtins := fun ha => by
    obtain ⟨hs, hd⟩ := h.active_builtins (by simpa using ha)
    simp [selValid_setSel, hs, hd]
  empty_builtins := fun he => by
    have he : s.phase = .empty := by simpa using he
    obtain ⟨hs, hd⟩ := h.empty_builtins he
    obtain ⟨hxs, hxd⟩ := hx he
    simp [selValid_setSel, hs, hd, hxs.symm, hxd.symm]
  active_pads := fun ha => padsInverse_congr (h.active_pads (by simpa using ha)) (by simp) (by simp)
  empty_pads := by simpa using h.empty_pads
  err_range := by simpa using h.err_range
  mem_wf := by simpa using h.mem_wf
  streams := fun y st hy => by
    by_cases hyx : y = x
    · subst hyx
      rw [selSlot_setSel_same] at hy
      cases hy
      exact hv
    · exact h.streams y st (by rwa [selSlot_setSel_of_ne s hyx] at hy)

theorem freshStream_law (w : Dword) :
    (freshStream w).cur = Config.prngStep^[(freshStream w).draws] (freshStream w).w0 := rfl

/-- One draw keeps the law of R35 (spec/42_selector_stream.md R164). -/
theorem advance_law (h : v.cur = Config.prngStep^[v.draws] v.w0) :
    (advance v).cur = Config.prngStep^[(advance v).draws] (advance v).w0 := by
  rw [advance_cur, advance_draws, advance_w0, Function.iterate_succ_apply', ← h]

theorem stateInv_drawn (h : StateInv s) (hp : s.phase = .active) (hx : selSlot s x = some v) :
    StateInv (setSel s x (advance v)) :=
  stateInv_setSel h (fun he => by simp [hp] at he) (advance_law (h.streams x v hx))

/-- INIT finds no cause of ConfigurationError exactly where all three parameters are set (R263). -/
theorem causeMask_eq_zero_iff : causeMask s = 0#16 ↔ s.qubits ≠ 0#8 ∧ s.numPads ≠ 0#16 ∧ s.seed ≠ [] := by
  have hzero : (0#16 : Half) = 0#13 ++ 0#1 ++ 0#1 ++ 0#1 := by decide
  have hbit : ∀ c, bit c = 0#1 ↔ c = false := by decide
  rw [causeMask, hzero, bitVec_append_inj, bitVec_append_inj, bitVec_append_inj]
  simp [hbit, and_assoc]

theorem stateInv_buildContext (h : StateInv s) (hc : causeMask s = 0#16) (hq : s.qubits = supportedWidth) :
    StateInv (buildContext s) where
  seed_fits := h.seed_fits
  active_config := fun _ => by
    obtain ⟨-, hn, -⟩ := causeMask_eq_zero_iff.mp hc
    exact ⟨hn, hq⟩
  active_builtins := fun _ => ⟨rfl, rfl⟩
  empty_builtins := nofun
  active_pads := fun _ => padsInverse_buildContext s
  empty_pads := nofun
  err_range := h.err_range
  mem_wf := by rw [buildContext_padMem]; exact cellsWrite_wf h.mem_wf _
  streams := fun x st hx => by
    cases x with
    | senc | sdec =>
      obtain rfl : freshStream (selWord s.seed) = st := by simpa using hx
      exact freshStream_law _
    | sx0 => exact h.streams .sx0 st hx
    | sx1 => exact h.streams .sx1 st hx

theorem okEffect_stateInv (he : OkEffect i s u d) (h : StateInv s) : StateInv u := by
  cases he with
  | nop | rdcsr => exact h
  | seedb _ b hl => exact stateInv_seedAppend h hl b
  | seedclr => exact stateInv_seedClear h
  | wrcsr _ c n _ hp => exact stateInv_csrWrite h hp c n
  | init _ _ hc hq => exact stateInv_buildContext h hc hq
  | mksel _ x hw =>
    refine stateInv_setSel h (fun _ => ?_) (freshStream_law _)
    obtain rfl | rfl : x = .sx0 ∨ x = .sx1 := by simpa [Instr.wf] using hw
    all_goals decide
  | enc _ x b st c _ hp hx | dec _ x b st c _ hp hx => exact stateInv_drawn h hp hx
  | destroy => exact stateInv_resetBlock s

theorem performWord_stateInv {w : Word} (h : StateInv s) (hw : performWord w s = .next t) : StateInv t := by
  obtain ⟨f, n, rfl⟩ | ⟨i, u, d, -, he, rfl⟩ := performWord_raises_or_responds hw
  · exact stateInv_raise h f n
  · exact stateInv_respond (okEffect_stateInv he h) d

end Invariants

/-- Settles O52. -/
theorem resetSatisfiesInvariants : Obligations.ResetSatisfiesInvariants := stateInv_reset

/-- Settles O53: waiting keeps the state, a reset gives the reset state, and a word raises a fault or has its effect. -/
theorem stepKeepsInvariants : Obligations.StepKeepsInvariants := by
  intro s t h hs
  obtain ⟨-, rfl⟩ | ⟨rest, -, rfl⟩ | ⟨w, rest, -, hw⟩ := step_next hs
  · exact h
  · exact stateInv_resetBlock _
  · exact performWord_stateInv (s := { s with inbox := rest }) (stateInv_frame h h.err_range rfl) hw

/-- Settles O56, by induction on how the state was reached. -/
theorem reachableStatesSatisfyInvariants : Obligations.ReachableStatesSatisfyInvariants := by
  intro s hs
  induction hs with
  | reset => exact stateInv_reset
  | present s e _ ih => exact stateInv_frame ih ih.err_range rfl
  | step s t _ hst ih => exact stepKeepsInvariants s t ih hst

/-- Settles O10: the reset state field by field, and RDCSR by register. -/
theorem resetLeavesStatedValues : Obligations.ResetLeavesStatedValues := by
  refine ⟨rfl, fun x => ?_, rfl, rfl, rfl, rfl, fun _ => rfl, fun _ => rfl, fun c => ?_⟩
  · cases x <;> rfl
  · cases c <;> rfl

/-! ### What the host can see -/

/-- Two outcomes of one command, from the states `s₁` and `s₂`, between which the host sees no difference but the data
of the response, and not even that where `sameWord` holds. -/
def AnswersAlike (sameWord : Prop) (s₁ s₂ : State) (a₁ a₂ : Result) : Prop :=
  ∀ t₁ t₂, a₁ = .next t₁ → a₂ = .next t₂ →
    SamePublic t₁ t₂ ∧ ∃ r₁ r₂ : Word, t₁.responses = s₁.responses ++ [r₁] ∧ t₂.responses = s₂.responses ++ [r₂] ∧
      r₁.extractLsb' 28 4 = r₂.extractLsb' 28 4 ∧ (sameWord → r₁ = r₂)

section Public

variable {s₁ s₂ u₁ u₂ : State} {sameWord : Prop}

/-! Updates made alike on both sides keep the agreement. -/

theorem samePublic_respond (h : SamePublic u₁ u₂) (d₁ d₂ : Half) : SamePublic (respond d₁ u₁) (respond d₂ u₂) := by
  simpa [SamePublic, selValid] using h

theorem samePublic_raise (h : SamePublic s₁ s₂) (f : FaultCode) (n₁ n₂ : Half) :
    SamePublic (raise f n₁ s₁) (raise f n₂ s₂) := by
  obtain ⟨hphase, hvalid, -, hrest⟩ := h
  exact ⟨hphase, by simpa [selValid] using hvalid, rfl, hrest⟩

theorem samePublic_seedAppend (h : SamePublic s₁ s₂) (b : Byte) :
    SamePublic (seedAppend s₁ b) (seedAppend s₂ b) := by
  simpa [SamePublic, selValid] using h

theorem samePublic_seedClear (h : SamePublic s₁ s₂) : SamePublic (seedClear s₁) (seedClear s₂) := by
  obtain ⟨hphase, hvalid, herr, hn, hq, -⟩ := h
  exact ⟨hphase, by simpa [selValid] using hvalid, herr, hn, hq, rfl⟩

theorem samePublic_csrWrite (h : SamePublic s₁ s₂) (c : Csr) (n : Half) :
    SamePublic (csrWrite s₁ c n) (csrWrite s₂ c n) := by
  have ⟨hphase, hvalid, herr, hn, hq, hl⟩ := h
  cases c with
  | status | seedlen | id => exact h
  | numpads => exact ⟨hphase, by simpa [selValid] using hvalid, herr, rfl, hq, hl⟩
  | qubits => exact ⟨hphase, by simpa [selValid] using hvalid, herr, hn, rfl, hl⟩

theorem samePublic_setSel (h : SamePublic s₁ s₂) (x : Sel) (v₁ v₂ : Stream) :
    SamePublic (setSel s₁ x v₁) (setSel s₂ x v₂) := by
  obtain ⟨hphase, hvalid, hrest⟩ := h
  exact ⟨by simpa, fun y => by rw [selValid_setSel, selValid_setSel, hvalid], by simpa using hrest⟩

theorem samePublic_buildContext (h : SamePublic s₁ s₂) : SamePublic (buildContext s₁) (buildContext s₂) := by
  obtain ⟨-, hvalid, hrest⟩ := h
  refine ⟨rfl, fun x => ?_, hrest⟩
  cases x with
  | senc | sdec => simp [selValid]
  | sx0 => exact hvalid .sx0
  | sx1 => exact hvalid .sx1

theorem samePublic_resetBlock (s₁ s₂ : State) : SamePublic (resetBlock s₁) (resetBlock s₂) :=
  ⟨rfl, fun x => by simp [selValid], rfl, rfl, rfl, rfl⟩

/-! What the commands decide and report by is public. -/

theorem seed_eq_nil_iff_of_samePublic (h : SamePublic s₁ s₂) : s₁.seed = [] ↔ s₂.seed = [] := by
  obtain ⟨-, -, -, -, -, hl⟩ := h
  rw [← List.length_eq_zero_iff, hl, List.length_eq_zero_iff]

theorem phaseInfo_of_samePublic (h : SamePublic s₁ s₂) : phaseInfo s₁ = phaseInfo s₂ := by
  rw [phaseInfo, phaseInfo, h.1]

theorem causeMask_of_samePublic (h : SamePublic s₁ s₂) : causeMask s₁ = causeMask s₂ := by
  have hempty : s₁.seed.isEmpty = s₂.seed.isEmpty := by
    rw [Bool.eq_iff_iff, List.isEmpty_iff, List.isEmpty_iff, seed_eq_nil_iff_of_samePublic h]
  obtain ⟨-, -, -, hn, hq, -⟩ := h
  rw [causeMask, causeMask, hn, hq, hempty]

/-- Every control register is a view of the public part (R29 to R34). -/
theorem csrRead_of_samePublic (h : SamePublic s₁ s₂) (c : Csr) : csrRead s₁ c = csrRead s₂ c := by
  obtain ⟨hphase, hvalid, herr, hn, hq, hl⟩ := h
  have hflag : ∀ x, (selSlot s₁ x).isSome = (selSlot s₂ x).isSome := hvalid
  cases c with
  | status =>
    have hstatus : ∀ s : State, statusWord s = 0#4 ++ s.err ++ bit (selSlot s .sx1).isSome
        ++ bit (selSlot s .sx0).isSome ++ bit (selSlot s .sdec).isSome ++ bit (selSlot s .senc).isSome
        ++ 0#3 ++ phaseBit s.phase := fun s => rfl
    simp only [csrRead, hstatus, herr, hphase, hflag]
  | numpads => exact hn
  | qubits => simp only [csrRead, hq]
  | seedlen => simp only [csrRead, seedLen, hl]
  | id => rfl

/-! One rule per way a meaning is built: a case distinction on the public part, a fault, a response, a stop. -/

theorem answersAlike_ite {c₁ c₂ : Prop} [Decidable c₁] [Decidable c₂] {a₁ a₂ b₁ b₂ : Result} (hc : c₁ ↔ c₂)
    (ha : AnswersAlike sameWord s₁ s₂ a₁ a₂) (hb : AnswersAlike sameWord s₁ s₂ b₁ b₂) :
    AnswersAlike sameWord s₁ s₂ (if c₁ then a₁ else b₁) (if c₂ then a₂ else b₂) := by
  by_cases h : c₁
  · rwa [if_pos h, if_pos (hc.mp h)]
  · rwa [if_neg h, if_neg (mt hc.mpr h)]

theorem answersAlike_raise (h : SamePublic s₁ s₂) (f : FaultCode) {n₁ n₂ : Half} (hn : n₁ = n₂) :
    AnswersAlike sameWord s₁ s₂ (.next (raise f n₁ s₁)) (.next (raise f n₂ s₂)) := by
  intro t₁ t₂ ht₁ ht₂
  cases ht₁
  cases ht₂
  exact ⟨samePublic_raise h f n₁ n₂, _, _, rfl, rfl, by rw [hn], fun _ => by rw [hn]⟩

theorem answersAlike_respond {d₁ d₂ : Half} (hu : SamePublic u₁ u₂) (h₁ : u₁.responses = s₁.responses)
    (h₂ : u₂.responses = s₂.responses) (hd : sameWord → d₁ = d₂) :
    AnswersAlike sameWord s₁ s₂ (.next (respond d₁ u₁)) (.next (respond d₂ u₂)) := by
  intro t₁ t₂ ht₁ ht₂
  cases ht₁
  cases ht₂
  exact ⟨samePublic_respond hu d₁ d₂, _, _, by rw [respond_responses, h₁], by rw [respond_responses, h₂],
    by rw [responseWord_code, responseWord_code], fun h => by rw [hd h]⟩

theorem answersAlike_fault_left (r : Fault) (a : Result) : AnswersAlike sameWord s₁ s₂ (.fault r) a :=
  fun _ _ h => nomatch h

theorem answersAlike_fault_right (r : Fault) (a : Result) : AnswersAlike sameWord s₁ s₂ a (.fault r) :=
  fun _ _ _ h => nomatch h

theorem answersAlike_ifLegal (h : SamePublic s₁ s₂) (i : Instr) {a₁ a₂ : Result}
    (ha : AnswersAlike sameWord s₁ s₂ a₁ a₂) :
    AnswersAlike sameWord s₁ s₂ (ifLegal i s₁ a₁) (ifLegal i s₂ a₂) := by
  unfold ifLegal
  exact answersAlike_ite Iff.rfl ha (answersAlike_raise h .illegalCommand rfl)

/-- A draw and lookup: whether it faults is public, and its data is exempt. -/
theorem substitute_answersAlike (h : SamePublic s₁ s₂) (hw : ¬ sameWord) (d : Dir) (x : Sel) (b : Byte) :
    AnswersAlike sameWord s₁ s₂ (substitute d x b s₁) (substitute d x b s₂) := by
  have ⟨hphase, hvalid, _, hn, _⟩ := h
  refine answersAlike_ite (by rw [hphase]) (answersAlike_raise h _ (phaseInfo_of_samePublic h)) ?_
  have hx : (selSlot s₁ x).isSome = (selSlot s₂ x).isSome := hvalid x
  cases hx₁ : selSlot s₁ x <;> cases hx₂ : selSlot s₂ x
  case none.none => exact answersAlike_raise h _ rfl
  case some.some st₁ st₂ =>
    refine answersAlike_ite (by rw [hn]) (answersAlike_fault_left _ _) ?_
    cases memRead s₁ (cipherAddr d s₁ st₁ b) with
    | none => exact answersAlike_fault_left _ _
    | some c₁ =>
      cases memRead s₂ (cipherAddr d s₂ st₂ b) with
      | none => exact answersAlike_fault_right _ _
      | some c₂ =>
        exact answersAlike_respond (samePublic_setSel h x _ _) (setSel_responses ..) (setSel_responses ..)
          fun hw' => absurd hw' hw
  all_goals simp [hx₁, hx₂] at hx

theorem exec_answersAlike (h : SamePublic s₁ s₂) (i : Instr) :
    AnswersAlike (∀ x b, i ≠ .enc x b ∧ i ≠ .dec x b) s₁ s₂ (exec i s₁) (exec i s₂) := by
  have ⟨hphase, _, _, _, hq, hl⟩ := h
  cases i with
  | nop => exact answersAlike_respond h rfl rfl fun _ => rfl
  | seedb b =>
    exact answersAlike_ite (by rw [hl]) (answersAlike_raise h _ (csrRead_of_samePublic h .seedlen))
      (answersAlike_respond (samePublic_seedAppend h b) rfl rfl fun _ => rfl)
  | seedclr => exact answersAlike_respond (samePublic_seedClear h) rfl rfl fun _ => rfl
  | rdcsr c =>
    exact answersAlike_ifLegal h (.rdcsr c) (answersAlike_respond h rfl rfl fun _ => csrRead_of_samePublic h c)
  | wrcsr c n =>
    exact answersAlike_ifLegal h (.wrcsr c n) (answersAlike_ite (by rw [hphase])
      (answersAlike_raise h _ (phaseInfo_of_samePublic h))
      (answersAlike_respond (samePublic_csrWrite h c n) (csrWrite_responses ..) (csrWrite_responses ..) fun _ => rfl))
  | init =>
    exact answersAlike_ite (by rw [hphase]) (answersAlike_raise h _ (phaseInfo_of_samePublic h))
      (answersAlike_ite (by rw [causeMask_of_samePublic h]) (answersAlike_raise h _ (causeMask_of_samePublic h))
        (answersAlike_ite (by rw [hq]) (answersAlike_raise h _ (by rw [hq]))
          (answersAlike_respond (samePublic_buildContext h) rfl rfl fun _ => rfl)))
  | mksel x =>
    exact answersAlike_ifLegal h (.mksel x) (answersAlike_ite (seed_eq_nil_iff_of_samePublic h)
      (answersAlike_raise h _ rfl)
      (answersAlike_respond (samePublic_setSel h x _ _) (setSel_responses ..) (setSel_responses ..) fun _ => rfl))
  | enc x b => exact answersAlike_ifLegal h (.enc x b) (substitute_answersAlike h (fun hw => (hw x b).1 rfl) .fwd x b)
  | dec x b => exact answersAlike_ifLegal h (.dec x b) (substitute_answersAlike h (fun hw => (hw x b).2 rfl) .inv x b)
  | destroy => exact answersAlike_respond (samePublic_resetBlock s₁ s₂) rfl rfl fun _ => rfl

end Public

/-- Settles O51: command by command, every decision before the response is made on the public part. -/
theorem secretsDoNotReachResponses : Obligations.SecretsDoNotReachResponses :=
  fun i _ _ t₁ t₂ h h₁ h₂ => exec_answersAlike h i t₁ t₂ h₁ h₂

end Sys2Proof.Proofs
end

section
/-! PROOFS of the statements of spec/20_memory.md: the address of a pad memory byte, which words write pad memory, and
its canonical form. -/

namespace Sys2Proof.Proofs

open Sys2Proof.Machine

/-! ### Addresses -/

/-- The fields of an appended word do not overlap, so its value is a sum. -/
theorem bitVec_toNat_append_eq_add {m n : Nat} (a : BitVec m) (b : BitVec n) :
    (a ++ b).toNat = a.toNat * 2 ^ n + b.toNat := by
  rw [BitVec.toNat_append, ← Nat.shiftLeft_add_eq_or_of_lt b.isLt, Nat.shiftLeft_eq]

theorem padAddr_toNat (d : Dir) (p : Half) (x : Byte) :
    (padAddr d p x).toNat = (dirBit d).toNat * 2 ^ 24 + p.toNat * 2 ^ 8 + x.toNat := by
  rw [padAddr, bitVec_toNat_append_eq_add, bitVec_toNat_append_eq_add]
  omega

/-- Settles O42: the two directions are the two values of bit 24. -/
theorem padAddrFields : Obligations.PadAddrFields := by
  intro p x
  have hfwd : (dirBit .fwd).toNat = 0 := rfl
  have hinv : (dirBit .inv).toNat = 1 := rfl
  exact ⟨by rw [padAddr_toNat, hfwd, Nat.zero_mul, Nat.zero_add], by rw [padAddr_toNat, hinv, Nat.one_mul]⟩

/-! ### Which words write pad memory -/

section PadMemory

variable {w : Word} {i : Instr} {s t u : State} {d : Half}

/-- What the effect of a command does to pad memory: INIT, which has its effect only while EMPTY, writes the tables,
DESTROY empties it, and the others leave it. -/
theorem okEffect_padMem (h : OkEffect i s u d) :
    u.padMem = s.padMem ∨
    (i = .init ∧ s.phase = .empty ∧ u.padMem = cellsWrite s.padMem (initWrites s.seed s.numPads.toNat)) ∨
    (i = .destroy ∧ u.padMem = []) := by
  cases h with
  | nop | rdcsr => exact .inl rfl
  | seedb => exact .inl (seedAppend_padMem ..)
  | seedclr => exact .inl (seedClear_padMem ..)
  | wrcsr => exact .inl (csrWrite_padMem ..)
  | init _ hp => exact .inr (.inl ⟨rfl, hp, buildContext_padMem ..⟩)
  | mksel | enc | dec => exact .inl (setSel_padMem ..)
  | destroy => exact .inr (.inr ⟨rfl, resetBlock_padMem ..⟩)

/-- The same of a word: one that raises a fault leaves pad memory too. -/
theorem performWord_padMem (h : performWord w s = .next t) :
    t.padMem = s.padMem ∨
    (decode w = some .init ∧ s.phase = .empty ∧
      t.padMem = cellsWrite s.padMem (initWrites s.seed s.numPads.toNat)) ∨
    (decode w = some .destroy ∧ t.padMem = []) := by
  obtain ⟨f, n, rfl⟩ | ⟨i, u, d, hi, he, rfl⟩ := performWord_raises_or_responds h
  · exact .inl (raise_padMem ..)
  · simp only [respond_padMem, hi, Option.some.injEq]
    exact okEffect_padMem he

theorem memory_wf_nil : Memory.wf [] := reset_padMem_wf

theorem performWord_memory_wf (h : performWord w s = .next t) (hs : Memory.wf s.padMem) : Memory.wf t.padMem := by
  obtain hm | ⟨-, -, hm⟩ | ⟨-, hm⟩ := performWord_padMem h <;> rw [hm]
  · exact hs
  · exact cellsWrite_wf hs _
  · exact memory_wf_nil

end PadMemory

/-- Settles O43: of the two commands that write pad memory, DESTROY is excluded and INIT has its effect only while
EMPTY. -/
theorem padMemoryImmutable : Obligations.PadMemoryImmutable := by
  intro w s t h hd hw
  have hm : t.padMem = s.padMem := by
    obtain hm | ⟨hi, hp, -⟩ | ⟨hi, -⟩ := performWord_padMem h
    · exact hm
    · simp [hp, hi] at hw
    · exact absurd hi hd
  exact memRead_congr hm

/-- Settles O44: waiting keeps pad memory, a reset empties it, and a word keeps its form. -/
theorem stepKeepsMemoryForm : Obligations.StepKeepsMemoryForm := by
  intro s t hs h
  obtain ⟨-, rfl⟩ | ⟨rest, -, rfl⟩ | ⟨w, rest, -, hw⟩ := step_next h
  · exact hs
  · exact memory_wf_nil
  · exact performWord_memory_wf hw hs

end Sys2Proof.Proofs
end

section
/-! PROOFS of the statements of spec/30_encoding.md: the legal words and the well-formed instructions are in
bijection, the rows of the opcode table, and the illegal words. -/

namespace Sys2Proof.Proofs

open Sys2Proof.Machine

/-! ### What each row of the decoder reads -/

section Rows

variable {i j : Instr} {op a : Byte} {imm : Half}

/-- `i` is a command, and these are the three fields of its word (R91, R93). -/
def HasFields (i : Instr) (op a : Byte) (imm : Half) : Prop :=
  i.wf = true ∧ op = opcodeOf i ∧ a = aOf i ∧ imm = immOf i

theorem hasFields_of_decodePlain (hj : HasFields j op 0#8 0#16) (h : decodePlain j a imm = some i) :
    HasFields i op a imm := by
  obtain ⟨⟨rfl, rfl⟩, ⟨⟩⟩ := Option.ite_none_right_eq_some.mp h
  exact hj

theorem hasFields_of_decodeSeedb (h : decodeSeedb a imm = some i) : HasFields i 0x01#8 a imm := by
  obtain ⟨⟨rfl, himm⟩, ⟨⟩⟩ := Option.ite_none_right_eq_some.mp h
  exact ⟨rfl, rfl, rfl, (immOfByte_immLow himm).symm⟩

theorem hasFields_of_decodeRdcsr (h : decodeRdcsr a imm = some i) : HasFields i 0x03#8 a imm := by
  simp only [decodeRdcsr, Option.ite_none_right_eq_some, Option.map_eq_some_iff] at h
  obtain ⟨rfl, c, hc, rfl⟩ := h
  exact ⟨rfl, rfl, (csrNumber_of_csrOf hc).symm, rfl⟩

theorem hasFields_of_decodeWrcsr (h : decodeWrcsr a imm = some i) : HasFields i 0x04#8 a imm := by
  unfold decodeWrcsr at h
  split at h
  · next ha => cases h; exact ⟨rfl, rfl, ha, rfl⟩
  · obtain ⟨⟨rfl, himm⟩, ⟨⟩⟩ := Option.ite_none_right_eq_some.mp h
    exact ⟨beq_iff_eq.mpr himm, rfl, rfl, rfl⟩

theorem hasFields_of_decodeMksel (h : decodeMksel a imm = some i) : HasFields i 0x11#8 a imm := by
  unfold decodeMksel at h
  split at h
  · cases h
  · next x hx =>
    obtain ⟨⟨hw, rfl⟩, ⟨⟩⟩ := Option.ite_none_right_eq_some.mp h
    exact ⟨by simpa [Instr.wf] using hw, rfl, (selNumber_of_selOf hx).symm, rfl⟩

theorem hasFields_of_decodeEnc (h : decodeEnc a imm = some i) : HasFields i 0x20#8 a imm := by
  unfold decodeEnc at h
  split at h
  · cases h
  · next x hx =>
    obtain ⟨⟨hw, himm⟩, ⟨⟩⟩ := Option.ite_none_right_eq_some.mp h
    exact ⟨bne_iff_ne.mpr hw, rfl, (selNumber_of_selOf hx).symm, (immOfByte_immLow himm).symm⟩

theorem hasFields_of_decodeDec (h : decodeDec a imm = some i) : HasFields i 0x21#8 a imm := by
  unfold decodeDec at h
  split at h
  · cases h
  · next x hx =>
    obtain ⟨⟨hw, himm⟩, ⟨⟩⟩ := Option.ite_none_right_eq_some.mp h
    exact ⟨bne_iff_ne.mpr hw, rfl, (selNumber_of_selOf hx).symm, (immOfByte_immLow himm).symm⟩

/-- Whatever the decoder reads from three fields is a command that has these fields. -/
theorem hasFields_of_decodeFields (h : decodeFields op a imm = some i) : HasFields i op a imm := by
  unfold decodeFields at h
  split_ifs at h <;> subst op
  · exact hasFields_of_decodePlain ⟨rfl, rfl, rfl, rfl⟩ h
  · exact hasFields_of_decodeSeedb h
  · exact hasFields_of_decodePlain ⟨rfl, rfl, rfl, rfl⟩ h
  · exact hasFields_of_decodeRdcsr h
  · exact hasFields_of_decodeWrcsr h
  · exact hasFields_of_decodePlain ⟨rfl, rfl, rfl, rfl⟩ h
  · exact hasFields_of_decodeMksel h
  · exact hasFields_of_decodeEnc h
  · exact hasFields_of_decodeDec h
  · exact hasFields_of_decodePlain ⟨rfl, rfl, rfl, rfl⟩ h

/-- From the fields of a term the decoder reads the term back where it is a command, and nothing where it is not. -/
theorem decodeFields_fieldsOf (i : Instr) :
    decodeFields (opcodeOf i) (aOf i) (immOf i) = if i.wf then some i else none := by
  cases i with
  | nop | seedclr | init | destroy => rfl
  | seedb b => simp [decodeFields, opcodeOf, aOf, immOf, decodeSeedb, Instr.wf]
  | rdcsr c => simp [decodeFields, opcodeOf, aOf, immOf, decodeRdcsr, Instr.wf]
  | wrcsr c n => cases c <;> simp [decodeFields, opcodeOf, aOf, immOf, decodeWrcsr, csrNumber, Instr.wf, immHigh]
  | mksel x => simp [decodeFields, opcodeOf, aOf, immOf, decodeMksel, Instr.wf]
  | enc x b => simp [decodeFields, opcodeOf, aOf, immOf, decodeEnc, Instr.wf]
  | dec x b => simp [decodeFields, opcodeOf, aOf, immOf, decodeDec, Instr.wf]

end Rows

/-! ### Round trips -/

section RoundTrip

variable {w : Word} {i : Instr}

/-- The word of a term decodes to the term where it is a command, and to nothing where it is not. -/
theorem decode_encode (i : Instr) : decode (encode i) = if i.wf then some i else none := by
  simp only [decode, encode, opField_commandWord, aField_commandWord, immField_commandWord, decodeFields_fieldsOf]

/-- The decoder by its result: a word is a command exactly when its fields are those of the command. -/
theorem decode_eq_some_iff : decode w = some i ↔ HasFields i (opField w) (aField w) (immField w) := by
  refine ⟨hasFields_of_decodeFields, fun ⟨hwf, hop, ha, himm⟩ => ?_⟩
  rw [decode, hop, ha, himm, decodeFields_fieldsOf, if_pos hwf]

theorem encode_of_decode (h : decode w = some i) : encode i = w := by
  obtain ⟨-, hop, ha, himm⟩ := decode_eq_some_iff.mp h
  rw [encode, ← hop, ← ha, ← himm, commandWord_fields]

/-- A term that is no command has the meaning of an illegal word (notes/assumptions/11.md). -/
theorem exec_of_not_wf (h : i.wf = false) (s : State) : exec i s = .next (raiseIllegal s) := by
  cases i with
  | nop | seedb | seedclr | rdcsr | init | destroy => cases h
  | wrcsr | mksel | enc | dec => exact ifLegal_of_not_wf h _

end RoundTrip

/-- Settles O1: of the two cases of `decode_encode`, the one of a command. -/
theorem decodeEncodeRoundTrip : Obligations.DecodeEncodeRoundTrip := by
  intro i hwf
  rw [decode_encode, if_pos hwf]

/-- Settles O2: the fields of the word are those of the command, and a word is the word of its fields. -/
theorem encodeDecodeRoundTrip : Obligations.EncodeDecodeRoundTrip :=
  fun _ _ h => ⟨(decode_eq_some_iff.mp h).1, encode_of_decode h⟩

/-- Settles O4: of the two cases of `decode_encode`, the one of a term that is no command; its meaning is the answer to
its illegal word. -/
theorem illFormedTermsAreIllegalCommands : Obligations.IllFormedTermsAreIllegalCommands := by
  intro i s hwf
  have hnone : decode (encode i) = none := by simp [decode_encode, hwf]
  have hexec : exec i s = performWord (encode i) s := by simp only [exec_of_not_wf hwf, performWord, hnone]
  exact ⟨hnone, hexec.trans (performWord_of_illegal s hnone)⟩

/-! ### Masks -/

section Masks

variable {w : Word}

/-! The masks of R93 write a field of ones as a literal, not as `BitVec.allOnes`. -/

theorem byte_and_full (a : Byte) : a &&& 0xFF#8 = a := BitVec.and_allOnes

theorem half_and_full (imm : Half) : imm &&& 0xFFFF#16 = imm := BitVec.and_allOnes

theorem word_and_full (w : Word) : w &&& 0xFFFFFFFF#32 = w := BitVec.and_allOnes

/-- A word is given by its three fields. -/
theorem word_eq_iff_fields {v : Word} :
    w = v ↔ opField w = opField v ∧ aField w = aField v ∧ immField w = immField v := by
  refine ⟨by rintro rfl; exact ⟨rfl, rfl, rfl⟩, fun ⟨hop, ha, himm⟩ => ?_⟩
  rw [← commandWord_fields w, hop, ha, himm, commandWord_fields]

/-- A mask acts on each field by itself. -/
theorem and_eq_iff_fields (mask m : Word) :
    w &&& mask = m ↔ opField w &&& opField mask = opField m ∧ aField w &&& aField mask = aField m ∧
      immField w &&& immField mask = immField m := by
  simp only [word_eq_iff_fields (w := w &&& mask), opField, aField, immField, BitVec.extractLsb'_and]

/-- The two bytes of the immediate are the low bytes of the word. -/
theorem immField_extractLsb' (w : Word) {k : Nat} (hk : k ≤ 8) :
    (immField w).extractLsb' k 8 = w.extractLsb' k 8 := by
  apply BitVec.eq_of_getLsbD_eq
  intro i hi
  simp [immField, hi, show k + i < 16 by omega]

/-- The mask of a row whose operand is the low byte of the immediate keeps the high byte. -/
theorem and_highMask_eq_zero_iff (imm : Half) : imm &&& 0xFF00#16 = 0#16 ↔ immHigh imm = 0#8 := by
  have hbytes : immHigh imm ++ immLow imm = imm := BitVec.extractLsb'_append_extractLsb'
  calc imm &&& 0xFF00#16 = 0#16
    _ ↔ (immHigh imm ++ immLow imm) &&& (0xFF#8 ++ 0#8) = 0#8 ++ 0#8 := by rw [hbytes]; rfl
    _ ↔ (immHigh imm &&& 0xFF#8) = 0#8 ∧ (immLow imm &&& 0#8) = 0#8 := by rw [BitVec.and_append, bitVec_append_inj]
    _ ↔ immHigh imm = 0#8 := by rw [and_iff_left BitVec.and_zero, byte_and_full]

theorem eq_immOfByte_iff {b : Byte} {imm : Half} : imm = immOfByte b ↔ immHigh imm = 0#8 ∧ b = immLow imm := by
  refine ⟨?_, fun ⟨himm, hb⟩ => by rw [hb, immOfByte_immLow himm]⟩
  rintro rfl
  exact ⟨immHigh_immOfByte b, (immLow_immOfByte b).symm⟩

/-- The mask of a row whose operand is the low byte of the immediate, and that byte, give the immediate. -/
theorem immField_eq_immOfByte_iff {b : Byte} :
    immField w = immOfByte b ↔ immField w &&& 0xFF00#16 = 0#16 ∧ b = w.extractLsb' 0 8 := by
  rw [eq_immOfByte_iff, and_highMask_eq_zero_iff, immLow, immField_extractLsb' w (Nat.zero_le 8)]

end Masks

/-! ### The rows by mask, match and constraint -/

section MaskRows

variable {w : Word} {i : Instr} {c : Csr} {x : Sel} {b : Byte} {n : Half}

/-- A row with no operand masks nothing out. -/
theorem decode_eq_some_iff_of_match {m : Word} (hm : decode m = some i) :
    decode w = some i ↔ w &&& 0xFFFFFFFF#32 = m := by
  rw [word_and_full]
  exact ⟨fun h => (encode_of_decode h).symm.trans (encode_of_decode hm), fun h => h ▸ hm⟩

theorem decode_eq_seedb_iff :
    decode w = some (.seedb b) ↔ w &&& 0xFFFFFF00#32 = 0x01000000#32 ∧ b = w.extractLsb' 0 8 := by
  calc decode w = some (.seedb b)
    _ ↔ opField w = 0x01#8 ∧ aField w = 0#8 ∧ immField w = immOfByte b :=
      decode_eq_some_iff.trans (and_iff_right rfl)
    _ ↔ (opField w &&& 0xFF#8 = 0x01#8 ∧ aField w &&& 0xFF#8 = 0#8 ∧ immField w &&& 0xFF00#16 = 0#16) ∧
        b = w.extractLsb' 0 8 := by
      rw [immField_eq_immOfByte_iff, byte_and_full, byte_and_full, and_assoc, and_assoc]
    _ ↔ _ := and_congr_left' (and_eq_iff_fields 0xFFFFFF00#32 0x01000000#32).symm

theorem decode_eq_rdcsr_iff :
    decode w = some (.rdcsr c) ↔ w &&& 0xFF00FFFF#32 = 0x03000000#32 ∧ (w.extractLsb' 16 8).toNat ≤ 4 ∧
      csrNumber c = w.extractLsb' 16 8 := by
  have hc : (csrNumber c).toNat ≤ 4 := by cases c <;> decide
  calc decode w = some (.rdcsr c)
    _ ↔ opField w = 0x03#8 ∧ aField w = csrNumber c ∧ immField w = 0#16 :=
      decode_eq_some_iff.trans (and_iff_right rfl)
    _ ↔ (opField w &&& 0xFF#8 = 0x03#8 ∧ aField w &&& 0#8 = 0#8 ∧ immField w &&& 0xFFFF#16 = 0#16) ∧
        (aField w).toNat ≤ 4 ∧ csrNumber c = aField w := by
      rw [byte_and_full, half_and_full]
      constructor
      · rintro ⟨hop, ha, himm⟩
        exact ⟨⟨hop, BitVec.and_zero, himm⟩, ha ▸ hc, ha.symm⟩
      · rintro ⟨⟨hop, -, himm⟩, -, ha⟩
        exact ⟨hop, ha.symm, himm⟩
    _ ↔ _ := and_congr_left' (and_eq_iff_fields 0xFF00FFFF#32 0x03000000#32).symm

/-- The further constraint of the row WRCSR is the well-formedness of the command (R95 item 5). -/
theorem wrcsr_wf_iff :
    (Instr.wrcsr c n).wf = true ↔ csrNumber c = 1#8 ∨ (csrNumber c = 2#8 ∧ immHigh n = 0#8) := by
  cases c <;> simp [Instr.wf, csrNumber, immHigh]

theorem decode_eq_wrcsr_iff :
    decode w = some (.wrcsr c n) ↔ w &&& 0xFF000000#32 = 0x04000000#32 ∧
      (w.extractLsb' 16 8 = 1#8 ∨ (w.extractLsb' 16 8 = 2#8 ∧ w.extractLsb' 8 8 = 0#8)) ∧
      csrNumber c = w.extractLsb' 16 8 ∧ n = w.extractLsb' 0 16 := by
  calc decode w = some (.wrcsr c n)
    _ ↔ (Instr.wrcsr c n).wf = true ∧ opField w = 0x04#8 ∧ aField w = csrNumber c ∧ immField w = n :=
      decode_eq_some_iff
    _ ↔ (opField w &&& 0xFF#8 = 0x04#8 ∧ aField w &&& 0#8 = 0#8 ∧ immField w &&& 0#16 = 0#16) ∧
        (aField w = 1#8 ∨ (aField w = 2#8 ∧ immHigh (immField w) = 0#8)) ∧
        csrNumber c = aField w ∧ n = immField w := by
      rw [wrcsr_wf_iff, byte_and_full]
      constructor
      · rintro ⟨hwf, hop, ha, rfl⟩
        exact ⟨⟨hop, BitVec.and_zero, BitVec.and_zero⟩, ha ▸ hwf, ha.symm, rfl⟩
      · rintro ⟨⟨hop, -, -⟩, hwf, ha, rfl⟩
        exact ⟨ha ▸ hwf, hop, ha.symm, rfl⟩
    _ ↔ _ := by
      rw [immHigh, immField_extractLsb' w le_rfl]
      exact and_congr_left' (and_eq_iff_fields 0xFF000000#32 0x04000000#32).symm

/-- MKSEL's mask leaves the low bit of the selector number free: the two external slots (R94). -/
theorem mksel_wf_iff : (Instr.mksel x).wf = true ↔ selNumber x &&& 0xFE#8 = 2#8 := by cases x <;> decide

theorem decode_eq_mksel_iff :
    decode w = some (.mksel x) ↔
      w &&& 0xFFFEFFFF#32 = 0x11020000#32 ∧ selNumber x = w.extractLsb' 16 8 := by
  calc decode w = some (.mksel x)
    _ ↔ (Instr.mksel x).wf = true ∧ opField w = 0x11#8 ∧ aField w = selNumber x ∧ immField w = 0#16 :=
      decode_eq_some_iff
    _ ↔ (opField w &&& 0xFF#8 = 0x11#8 ∧ aField w &&& 0xFE#8 = 2#8 ∧ immField w &&& 0xFFFF#16 = 0#16) ∧
        selNumber x = aField w := by
      rw [mksel_wf_iff, byte_and_full, half_and_full]
      constructor
      · rintro ⟨hwf, hop, ha, himm⟩
        exact ⟨⟨hop, ha ▸ hwf, himm⟩, ha.symm⟩
      · rintro ⟨⟨hop, hwf, himm⟩, ha⟩
        exact ⟨ha ▸ hwf, hop, ha.symm, himm⟩
    _ ↔ _ := and_congr_left' (and_eq_iff_fields 0xFFFEFFFF#32 0x11020000#32).symm

/-- A row of the cipher engine: its mask leaves the two bits of a selector number free, and `r` is the number of the
one selector that its direction may not name (R94). -/
theorem cipherRow_iff {op r : Byte} :
    (selNumber x ≠ r ∧ opField w = op ∧ aField w = selNumber x ∧ immField w = immOfByte b) ↔
      (opField w &&& 0xFF#8 = op ∧ aField w &&& 0xFC#8 = 0#8 ∧ immField w &&& 0xFF00#16 = 0#16) ∧
        aField w ≠ r ∧ selNumber x = aField w ∧ b = w.extractLsb' 0 8 := by
  have hx : selNumber x &&& 0xFC#8 = 0#8 := by cases x <;> decide
  rw [byte_and_full, immField_eq_immOfByte_iff]
  constructor
  · rintro ⟨hr, hop, ha, himm, hb⟩
    exact ⟨⟨hop, ha ▸ hx, himm⟩, ha ▸ hr, ha.symm, hb⟩
  · rintro ⟨⟨hop, -, himm⟩, hr, ha, hb⟩
    exact ⟨ha ▸ hr, hop, ha.symm, himm, hb⟩

theorem enc_wf_iff : (Instr.enc x b).wf = true ↔ selNumber x ≠ 1#8 := by cases x <;> simp [Instr.wf, selNumber]

theorem dec_wf_iff : (Instr.dec x b).wf = true ↔ selNumber x ≠ 0#8 := by cases x <;> simp [Instr.wf, selNumber]

theorem decode_eq_enc_iff :
    decode w = some (.enc x b) ↔ w &&& 0xFFFCFF00#32 = 0x20000000#32 ∧ w.extractLsb' 16 8 ≠ 1#8 ∧
      selNumber x = w.extractLsb' 16 8 ∧ b = w.extractLsb' 0 8 := by
  rw [decode_eq_some_iff, HasFields, enc_wf_iff, and_eq_iff_fields]
  exact cipherRow_iff

theorem decode_eq_dec_iff :
    decode w = some (.dec x b) ↔ w &&& 0xFFFCFF00#32 = 0x21000000#32 ∧ w.extractLsb' 16 8 ≠ 0#8 ∧
      selNumber x = w.extractLsb' 16 8 ∧ b = w.extractLsb' 0 8 := by
  rw [decode_eq_some_iff, HasFields, dec_wf_iff, and_eq_iff_fields]
  exact cipherRow_iff

end MaskRows

/-- Settles O5: row by row; the fields a mask keeps are those the row fixes. -/
theorem decodeFollowsMaskAndMatch : Obligations.DecodeFollowsMaskAndMatch :=
  ⟨by decide, fun _ => ⟨decode_eq_some_iff_of_match (by decide), fun _ => decode_eq_seedb_iff,
    decode_eq_some_iff_of_match (by decide), fun _ => decode_eq_rdcsr_iff, fun _ _ => decode_eq_wrcsr_iff,
    decode_eq_some_iff_of_match (by decide), fun _ => decode_eq_mksel_iff, fun _ _ => decode_eq_enc_iff,
    fun _ _ => decode_eq_dec_iff, decode_eq_some_iff_of_match (by decide)⟩⟩

/-! ### The illegal words -/

section Illegal

variable {i : Instr} {op a : Byte} {imm : Half}

theorem decodePlain_eq_none_iff : decodePlain i a imm = none ↔ a ≠ 0#8 ∨ imm ≠ 0#16 := by
  simp [decodePlain, or_iff_not_imp_left]

theorem decodeSeedb_eq_none_iff : decodeSeedb a imm = none ↔ a ≠ 0#8 ∨ immHigh imm ≠ 0#8 := by
  simp [decodeSeedb, or_iff_not_imp_left]

theorem csrOf_eq_none_iff : ∀ {a : Byte}, csrOf a = none ↔ 4 < a.toNat := by decide

theorem decodeRdcsr_eq_none_iff : decodeRdcsr a imm = none ↔ 4 < a.toNat ∨ imm ≠ 0#16 := by
  simp [decodeRdcsr, csrOf_eq_none_iff, or_iff_not_imp_right]

theorem decodeWrcsr_eq_none_iff :
    decodeWrcsr a imm = none ↔ a ∉ [1#8, 2#8] ∨ (a = 2#8 ∧ immHigh imm ≠ 0#8) := by
  unfold decodeWrcsr
  split
  · next ha => simp [ha]
  · next ha => by_cases ha2 : a = 2#8 <;> simp [ha, ha2]

theorem decodeMksel_eq_none_iff : decodeMksel a imm = none ↔ a ∉ [2#8, 3#8] ∨ imm ≠ 0#16 := by
  unfold decodeMksel selOf
  split_ifs <;> simp_all

theorem decodeEnc_eq_none_iff : decodeEnc a imm = none ↔ a ∉ [0#8, 2#8, 3#8] ∨ immHigh imm ≠ 0#8 := by
  unfold decodeEnc selOf
  split_ifs <;> simp_all

theorem decodeDec_eq_none_iff : decodeDec a imm = none ↔ a ∉ [1#8, 2#8, 3#8] ∨ immHigh imm ≠ 0#8 := by
  unfold decodeDec selOf
  split_ifs <;> simp_all

/-- The eight items of R95, with the immediate's high byte by its name. -/
theorem decodeFields_eq_none_iff : decodeFields op a imm = none ↔
    (op ∉ [0x00#8, 0x01#8, 0x02#8, 0x03#8, 0x04#8, 0x10#8, 0x11#8, 0x20#8, 0x21#8, 0x3F#8]) ∨
    (op ∈ [0x00#8, 0x02#8, 0x10#8, 0x3F#8] ∧ (a ≠ 0#8 ∨ imm ≠ 0#16)) ∨
    (op = 0x01#8 ∧ (a ≠ 0#8 ∨ immHigh imm ≠ 0#8)) ∨
    (op = 0x03#8 ∧ (4 < a.toNat ∨ imm ≠ 0#16)) ∨
    (op = 0x04#8 ∧ (a ∉ [1#8, 2#8] ∨ (a = 2#8 ∧ immHigh imm ≠ 0#8))) ∨
    (op = 0x11#8 ∧ (a ∉ [2#8, 3#8] ∨ imm ≠ 0#16)) ∨
    (op = 0x20#8 ∧ (a ∉ [0#8, 2#8, 3#8] ∨ immHigh imm ≠ 0#8)) ∨
    (op = 0x21#8 ∧ (a ∉ [1#8, 2#8, 3#8] ∨ immHigh imm ≠ 0#8)) := by
  by_cases hop : op ∈ [0x00#8, 0x01#8, 0x02#8, 0x03#8, 0x04#8, 0x10#8, 0x11#8, 0x20#8, 0x21#8, 0x3F#8]
  · simp only [List.mem_cons, List.not_mem_nil, or_false] at hop
    obtain rfl | rfl | rfl | rfl | rfl | rfl | rfl | rfl | rfl | rfl := hop
    · simp [decodeFields, decodePlain_eq_none_iff]
    · simp [decodeFields, decodeSeedb_eq_none_iff]
    · simp [decodeFields, decodePlain_eq_none_iff]
    · simp [decodeFields, decodeRdcsr_eq_none_iff]
    · simp [decodeFields, decodeWrcsr_eq_none_iff]
    · simp [decodeFields, decodePlain_eq_none_iff]
    · simp [decodeFields, decodeMksel_eq_none_iff]
    · simp [decodeFields, decodeEnc_eq_none_iff]
    · simp [decodeFields, decodeDec_eq_none_iff]
    · simp [decodeFields, decodePlain_eq_none_iff]
  · simp_all [decodeFields]

end Illegal

/-- Settles O3: the items are those of the rows, and an illegal word's answer is `performWord_of_illegal`. -/
theorem illegalWordsExactly : Obligations.IllegalWordsExactly := by
  rintro w _ _ _ rfl rfl rfl
  exact ⟨decodeFields_eq_none_iff, fun h s => performWord_of_illegal s h⟩

end Sys2Proof.Proofs
end

section
/-! PROOFS of the statements of spec/40_primitives.md: the seed word as the little-endian value of what DERIVE returns,
and the shuffle under a generator whose draws are all 0. -/

namespace Sys2Proof.Proofs

open Sys2Proof.Machine

/-! ### Little-endian values -/

section LittleEndian

variable {b : List Byte}

@[simp] theorem leNat_nil : leNat [] = 0 := rfl

@[simp] theorem leNat_cons (x : Byte) (b : List Byte) : leNat (x :: b) = x.toNat + 256 * leNat b := rfl

/-- The value as a sum over the byte positions, byte `k` weighing `2^(8k)` (spec/00_scope.md R13). -/
theorem leNat_eq_sum (b : List Byte) :
    leNat b = ((List.range b.length).map fun k => (b.getD k 0#8).toNat * 2 ^ (8 * k)).sum := by
  induction b with
  | nil => simp
  | cons x b ih =>
    have weight : ∀ k, 2 ^ (8 * (k + 1)) = 256 * 2 ^ (8 * k) := fun k => by
      rw [Nat.mul_succ, Nat.pow_add, Nat.mul_comm]
    rw [leNat_cons, ih, List.length_cons, List.range_succ_eq_map, List.map_cons, List.sum_cons, List.map_map,
      ← List.sum_map_mul_left]
    simp [Function.comp_def, weight, Nat.mul_left_comm]

theorem leNat_lt (b : List Byte) : leNat b < 2 ^ (8 * b.length) := by
  induction b with
  | nil => simp
  | cons x b ih =>
    have hx := x.isLt
    rw [leNat_cons, List.length_cons, Nat.mul_succ, Nat.pow_add]
    omega

/-- The block's conversion is exact on the strings it is used for (spec/20_memory.md R65). -/
theorem le64_toNat (h : b.length = 8) : (le64 b).toNat = leNat b := by
  have hlt := leNat_lt b
  rw [h] at hlt
  rw [le64, BitVec.toNat_ofNat, Nat.mod_eq_of_lt hlt]

end LittleEndian

/-! ### Seed words -/

/-- DERIVE returns as many bytes as it is asked for (R120). -/
@[simp] theorem derive_length (key label salt : List Byte) (iterations outLen : Nat) :
    (derive key label salt iterations outLen).length = outLen := by
  rw [derive, List.length_map, List.length_range]

theorem seedWord_toNat (seed label salt : List Byte) :
    (seedWord seed label salt).toNat = leNat (derive seed label salt 128 8) :=
  le64_toNat (derive_length ..)

/-- The bytes of the selector label spell its name in ASCII (spec/42_selector_stream.md R160). -/
theorem selectorLabel_eq_ascii :
    selectorLabel = "PERMUTATION_MATRIX_SELECTOR".toList.map fun c => BitVec.ofNat 8 c.toNat := by
  decide

/-- Settles O26: DERIVE returns 8 bytes, so that `le64` loses nothing and is the sum over the byte positions. -/
theorem seedWordIsLittleEndian : Obligations.SeedWordIsLittleEndian := by
  refine ⟨fun seed label salt => ⟨derive_length .., ?_⟩, fun _ _ => rfl, fun seed => ?_⟩
  · rw [seedWord_toNat, leNat_eq_sum, derive_length]
  · rw [selWord, selectorLabel_eq_ascii]

/-! ### The shuffle under draws of 0 -/

section ZeroDraws

variable {step : Dword → Dword} {out32 : Dword → Word} {w : Dword}

/-- A draw of 0 makes iteration `j` swap `T[j]` with `T[0]` (spec/41_pad_generator.md R145). -/
theorem shuffleLoop_succ_of_zero_draw (hstep : step w = w) (hout : out32 w = 0#32) (j : Nat) (hj : j + 1 < 256)
    (t : Table) : shuffleLoop step out32 (j + 1) hj w t =
      shuffleLoop step out32 j (Nat.lt_of_succ_lt hj) w (t.swap (j + 1) 0 hj (by decide)) := by
  simp [shuffleLoop, draw, hstep, hout]

/-- A generator that stays where every draw is 0 rotates the first `j + 1` entries by one, entry 0 to place `j`, and
leaves the others. -/
theorem getElem_shuffleLoop_of_zero_draws (hstep : step w = w) (hout : out32 w = 0#32) (j : Nat) (hj : j < 256)
    (t : Table) (x : Nat) (hx : x < 256) :
    (shuffleLoop step out32 j hj w t)[x] = if h : x < j then t[x + 1] else if x = j then t[0] else t[x] := by
  induction j generalizing t with
  | zero =>
    by_cases h : x = 0
    · subst h; rfl
    · simp [shuffleLoop, h]
  | succ j ih =>
    rw [shuffleLoop_succ_of_zero_draw hstep hout, ih]
    obtain hlt | rfl | hgt := lt_trichotomy x j
    · simp [hlt, Nat.lt_succ_of_lt hlt, hlt.ne]
    · simp
    · have h₁ : ¬ x < j := by omega
      have h₂ : ¬ x < j + 1 := by omega
      simp [Vector.getElem_swap, h₁, h₂, hgt.ne', (Nat.zero_lt_of_lt hgt).ne']

@[simp] theorem getElem_identityTable (x : Nat) (hx : x < 256) : identityTable[x] = BitVec.ofNat 8 x :=
  Vector.getElem_ofFn hx

theorem getElem_shuffleWith_of_zero_draws (hstep : step w = w) (hout : out32 w = 0#32) (x : Nat) (hx : x < 256) :
    (shuffleWith step out32 w)[x] = BitVec.ofNat 8 ((x + 1) % 256) := by
  rw [shuffleWith, getElem_shuffleLoop_of_zero_draws hstep hout]
  obtain hlt | rfl : x < 255 ∨ x = 255 := by omega
  · rw [dif_pos hlt, getElem_identityTable, Nat.mod_eq_of_lt (by omega)]
  · simp

end ZeroDraws

/-- The state 0 is fixed by the default generator (R127). -/
theorem xorshiftStep_zero : xorshiftStep 0#64 = 0#64 := by decide

theorem xorshiftOut_zero : xorshiftOut 0#64 = 0#32 := by decide

/-- Settles O22: from the word 0 every draw of the default generator is 0, so that the shuffle rotates by one. -/
theorem shuffleOfZeroIsRotation : Obligations.ShuffleOfZeroIsRotation := by
  refine List.ext_getElem (by simp) fun x hx _ => ?_
  have hx : x < 256 := by simpa using hx
  simpa using getElem_shuffleWith_of_zero_draws xorshiftStep_zero xorshiftOut_zero x hx

end Sys2Proof.Proofs
end

section
/-! PROOFS of the statements of spec/41_pad_generator.md: the four outcomes of INIT, the shuffle and its inverse table,
what pad memory holds after INIT, and the labels of the pads. -/

namespace Sys2Proof.Proofs

open Sys2Proof.Machine

/-! ### The outcomes of INIT -/

section InitOutcomes

variable {s t : State}

/-- A response word as a number: its fields do not overlap (spec/30_encoding.md R97). -/
theorem responseWord_eq_ofNat (c : BitVec 4) (d : Half) :
    responseWord c d = BitVec.ofNat 32 (c.toNat * 2 ^ 28 + d.toNat) := by
  have hvalue : (responseWord c d).toNat = c.toNat * 2 ^ 28 + d.toNat := by
    have hzero : (0#12).toNat = 0 := rfl
    rw [responseWord, bitVec_toNat_append_eq_add, bitVec_toNat_append_eq_add, hzero]
    omega
  rw [← hvalue, BitVec.ofNat_toNat, BitVec.setWidth_eq]

theorem bit_decide_toNat (c : Prop) [Decidable c] : (bit (decide c)).toNat = if c then 1 else 0 := by
  by_cases h : c <;> simp [bit, h]

/-- The mask weighs its causes 1, 2 and 4 (R141, spec/60_exceptions.md R263). -/
theorem causeMask_toNat (s : State) : (causeMask s).toNat =
    (if s.seed = [] then 1 else 0) + (if s.numPads = 0#16 then 2 else 0) + (if s.qubits = 0#8 then 4 else 0) := by
  have hzero : (0#13).toNat = 0 := rfl
  have hseed : s.seed.isEmpty = decide (s.seed = []) := by cases s.seed <;> rfl
  rw [causeMask, bitVec_toNat_append_eq_add, bitVec_toNat_append_eq_add, bitVec_toNat_append_eq_add, hzero, hseed,
    beq_eq_decide, beq_eq_decide, bit_decide_toNat, bit_decide_toNat, bit_decide_toNat]
  split <;> split <;> split <;> rfl

/-- While ACTIVE the info of a StateError is the one bit of PHASE (spec/30_encoding.md R98). -/
theorem stateError_word_of_active (hp : s.phase = .active) :
    responseWord (faultNumber .stateError) (phaseInfo s) = 0x40000001#32 := by
  rw [phaseInfo, hp]
  decide

/-- The response word of a ConfigurationError INIT raises carries every cause at once (R141). -/
theorem configurationError_word (s : State) :
    responseWord (faultNumber .configurationError) (causeMask s) =
      BitVec.ofNat 32 (0x10000000 + (if s.seed = [] then 1 else 0) + (if s.numPads = 0#16 then 2 else 0)
        + (if s.qubits = 0#8 then 4 else 0)) := by
  rw [responseWord_eq_ofNat, causeMask_toNat, ← Nat.add_assoc, ← Nat.add_assoc]
  rfl

theorem unsupportedWidth_word (q : Byte) :
    responseWord (faultNumber .unsupportedWidth) (0#8 ++ q) = BitVec.ofNat 32 (0x20000000 + q.toNat) := by
  rw [responseWord_eq_ofNat, bitVec_toNat_append_eq_add]
  simp [faultNumber]

theorem exec_init_of_active (hp : s.phase = .active) :
    exec .init s = .next (raise .stateError (phaseInfo s) s) := if_pos hp

theorem exec_init_of_empty (hp : s.phase = .empty) : exec .init s =
    if causeMask s ≠ 0#16 then .next (raise .configurationError (causeMask s) s)
    else if s.qubits ≠ supportedWidth then .next (raise .unsupportedWidth (0#8 ++ s.qubits) s)
    else .next (respond 0#16 (buildContext s)) := if_neg (by rw [hp]; decide)

theorem exec_init_of_cause (hp : s.phase = .empty) (hc : causeMask s ≠ 0#16) :
    exec .init s = .next (raise .configurationError (causeMask s) s) := by
  rw [exec_init_of_empty hp, if_pos hc]

theorem exec_init_of_width (hp : s.phase = .empty) (hc : causeMask s = 0#16) (hq : s.qubits ≠ supportedWidth) :
    exec .init s = .next (raise .unsupportedWidth (0#8 ++ s.qubits) s) := by
  rw [exec_init_of_empty hp, if_neg (not_not.mpr hc), if_pos hq]

/-- With none of the faults INIT builds the context and responds (R147). -/
theorem exec_init_of_configured (hp : s.phase = .empty) (hs : s.seed ≠ []) (hn : s.numPads ≠ 0#16)
    (hq : s.qubits = supportedWidth) : exec .init s = .next (respond 0#16 (buildContext s)) := by
  have hc : causeMask s = 0#16 := causeMask_eq_zero_iff.mpr ⟨by rw [hq]; decide, hn, hs⟩
  rw [exec_init_of_empty hp, if_neg (not_not.mpr hc), if_neg (not_not.mpr hq)]

/-- An INIT that takes the block from EMPTY to ACTIVE has built the context, since a fault leaves PHASE. -/
theorem eq_of_exec_init_active (hp : s.phase = .empty) (h : exec .init s = .next t) (ht : t.phase = .active) :
    t = respond 0#16 (buildContext s) := by
  obtain ⟨f, n, rfl⟩ | ⟨u, d, he, rfl⟩ := exec_next h
  · simp [hp] at ht
  · cases he
    rfl

end InitOutcomes

/-- Settles O17: one clause per outcome of INIT, with the number its response word has. -/
theorem initFaultsInOrder : Obligations.InitFaultsInOrder := by
  intro s
  refine ⟨fun hp => ?_, fun hp hcause => ?_, fun hp hs hn hz hq => ?_, fun hp hs hn hq => ?_⟩
  · rw [exec_init_of_active hp, ← stateError_word_of_active hp]
    rfl
  · have hc : causeMask s ≠ 0#16 := fun hc => by
      obtain ⟨hq, hn, hs⟩ := causeMask_eq_zero_iff.mp hc
      exact hcause.elim hs (·.elim hn hq)
    rw [exec_init_of_cause hp hc, ← configurationError_word]
    rfl
  · rw [exec_init_of_width hp (causeMask_eq_zero_iff.mpr ⟨hz, hn, hs⟩) hq, ← unsupportedWidth_word]
    rfl
  · exact ⟨_, exec_init_of_configured hp hs hn hq, respond_phase .., respond_err .., rfl⟩

/-- Settles O19: after reset every cause stands, so the mask is 7. -/
theorem initAfterResetReportsEveryCause : Obligations.InitAfterResetReportsEveryCause := by
  obtain ⟨-, hcauses, -, -⟩ := initFaultsInOrder State.reset
  have hdecode : decode 0x10000000#32 = some .init := by decide
  exact (step_word_of_decode State.reset hdecode []).trans (hcauses rfl (.inl rfl))

/-! ### The shuffle and its inverse table -/

/-- Settles O21: the shuffle swaps entries of the identity, and an injection of the bytes is a bijection. -/
theorem shuffleIsPermutation : Obligations.ShuffleIsPermutation := fun g o w =>
  Finite.injective_iff_bijective.mp (entry_shuffleWith_injective g o w)

section InverseScan

variable {t : Table}

/-- The scan of R146 over some of the positions of `t`, continuing a partial inverse table. -/
def inverseScan (t : Table) (ks : List (Fin 256)) (inv : Table) : Table :=
  ks.foldl (fun inv k => inv.set t[k].toNat (BitVec.ofNat 8 k.val) t[k].isLt) inv

theorem inverseTable_eq_inverseScan (t : Table) :
    inverseTable t = inverseScan t (List.finRange 256) (Vector.replicate 256 0#8) := rfl

theorem inverseScan_cons (t : Table) (k : Fin 256) (ks : List (Fin 256)) (inv : Table) :
    inverseScan t (k :: ks) inv = inverseScan t ks (inv.set t[k].toNat (BitVec.ofNat 8 k.val) t[k].isLt) := rfl

theorem entry_ofNat_fin (t : Table) (k : Fin 256) : entry t (BitVec.ofNat 8 k.val) = t[k] := by simp [entry]

theorem entry_set (inv : Table) (y v z : Byte) :
    entry (inv.set y.toNat v y.isLt) z = if y = z then v else entry inv z := by
  simp [entry, Vector.getElem_set, BitVec.toNat_inj]

/-- The scan gives `x` its place once it has come past `x`, and takes from no place what is rightly there, since no
two positions have the same entry. -/
theorem entry_inverseScan (ht : Function.Injective (entry t)) (x : Byte) (ks : List (Fin 256)) (inv : Table)
    (h : x.toFin ∈ ks ∨ entry inv (entry t x) = x) : entry (inverseScan t ks inv) (entry t x) = x := by
  induction ks generalizing inv with
  | nil => exact h.resolve_left List.not_mem_nil
  | cons k ks ih =>
    rw [inverseScan_cons]
    refine ih _ ?_
    rw [entry_set, ← entry_ofNat_fin]
    by_cases hk : k = x.toFin
    · subst hk
      simp
    · have hne : entry t (BitVec.ofNat 8 k.val) ≠ entry t x := fun he =>
        hk (Fin.ext (by simpa using congrArg BitVec.toNat (ht he)))
      rw [if_neg hne]
      exact h.imp_left fun hm => (List.mem_cons.mp hm).resolve_left (Ne.symm hk)

theorem entry_inverseTable_entry (ht : Function.Injective (entry t)) (x : Byte) :
    entry (inverseTable t) (entry t x) = x :=
  entry_inverseScan ht x _ _ (.inl (List.mem_finRange _))

theorem entry_entry_inverseTable (ht : Function.Bijective (entry t)) (x : Byte) :
    entry t (entry (inverseTable t) x) = x := by
  obtain ⟨z, rfl⟩ := ht.surjective x
  rw [entry_inverseTable_entry ht.injective]

end InverseScan

/-! ### Pad memory after INIT -/

section PadsAfterInit

variable {s : State} {p : Half}

/-- INIT writes no address but those of the pads below NUMPADS. -/
theorem memRead_buildContext_of_ne {a : BitVec 25}
    (ha : ∀ (d : Dir) (p : Half) (x : Byte), p.toNat < s.numPads.toNat → a ≠ padAddr d p x) :
    memRead (buildContext s) a = memRead s a := by
  rw [memRead, buildContext_padMem]
  refine cellRead_cellsWrite_of_not_mem _ _ a fun w hw => ?_
  obtain ⟨p, hp, hw⟩ := mem_initWrites.mp hw
  obtain ⟨x, rfl⟩ | ⟨x, rfl⟩ := mem_padWrites.mp hw
  · exact (ha .fwd p x hp).symm
  · exact (ha .inv p _ hp).symm

/-- The inverse table of a pad in pad memory is the inverse table of its shuffle (R146, R147). -/
theorem padByte_buildContext_inv_eq (hp : p.toNat < s.numPads.toNat) (y : Byte) :
    padByte (buildContext s) .inv p y = some (entry (inverseTable (padTable s.seed p.toNat)) y) := by
  have hbij := entry_padTable_bijective s.seed p.toNat
  obtain ⟨x, rfl⟩ := hbij.surjective y
  rw [padByte_buildContext_inv hp, entry_inverseTable_entry hbij.injective]

/-- A pad's content is a function of the seed and its index (R150). -/
theorem padByte_buildContext_congr {s₁ s₂ : State} (hseed : s₁.seed = s₂.seed) (h₁ : p.toNat < s₁.numPads.toNat)
    (h₂ : p.toNat < s₂.numPads.toNat) (d : Dir) (x : Byte) :
    padByte (buildContext s₁) d p x = padByte (buildContext s₂) d p x := by
  cases d with
  | fwd => rw [padByte_buildContext_fwd h₁, padByte_buildContext_fwd h₂, hseed]
  | inv => rw [padByte_buildContext_inv_eq h₁, padByte_buildContext_inv_eq h₂, hseed]

end PadsAfterInit

/-- Settles O18: the state after INIT is the built context with the response, and its reads are those of
`buildContext`. -/
theorem initBuildsContext : Obligations.InitBuildsContext := by
  intro s hp hs hn hq
  refine ⟨_, exec_init_of_configured hp hs hn hq, rfl, fun p x hlt => ⟨?_, ?_⟩, fun a ha => ?_⟩
  · exact padByte_buildContext_fwd hlt x
  · exact padByte_buildContext_inv hlt x
  · exact memRead_buildContext_of_ne ha

/-- Settles O23: the scan inverts every bijection, and pad memory holds the shuffle and the scan's table. -/
theorem inverseTableInverts : Obligations.InverseTableInverts := by
  refine ⟨fun t ht x => ⟨entry_inverseTable_entry ht.injective x, entry_entry_inverseTable ht x⟩,
    fun s hp hs hn hq => ⟨_, exec_init_of_configured hp hs hn hq, fun p y hlt => ?_⟩⟩
  obtain ⟨hfwd, hinv⟩ := padsInverse_buildContext s p hlt y
  exact ⟨padByte_buildContext_inv_eq hlt y, hfwd, hinv⟩

/-- Settles O20: both blocks hold the context `buildContext` gives, which reads the seed alone. -/
theorem initIsDeterministic : Obligations.InitIsDeterministic := by
  intro s₁ s₂ t₁ t₂ hseed hp₁ hp₂ he₁ ht₁ he₂ ht₂
  obtain rfl := eq_of_exec_init_active hp₁ he₁ ht₁
  obtain rfl := eq_of_exec_init_active hp₂ he₂ ht₂
  refine ⟨?_, ?_, fun p d x h₁ h₂ => padByte_buildContext_congr hseed h₁ h₂ d x⟩
  · rw [respond_senc, respond_senc, buildContext_senc, buildContext_senc, hseed]
  · rw [respond_sdec, respond_sdec, buildContext_sdec, buildContext_sdec, hseed]

/-! ### The labels of the pads -/

/-- A numeral has one value, so different numbers have different numerals (R151). -/
theorem dec_injective : Function.Injective dec := Function.LeftInverse.injective dec_value

theorem padLabel_injective : Function.Injective padLabel := fun _ _ h => dec_injective (List.append_cancel_left h)

/-- Settles O24. -/
theorem padLabelsDistinct : Obligations.PadLabelsDistinct :=
  ⟨fun _ => rfl, by decide, by decide, by decide, fun _ _ h => padLabel_injective h⟩

end Sys2Proof.Proofs
end

section
/-! PROOFS of the statements of spec/42_selector_stream.md: MKSEL, the stream of draws, and what an ENC or DEC does to
the register it names. -/

namespace Sys2Proof.Proofs

open Sys2Proof.Machine

/-! ### MKSEL -/

section Mksel

variable {w : Word} {i : Instr} {x : Sel} {s : State}

/-- MKSEL may name the external slots only (R161, spec/30_encoding.md R94). -/
theorem mksel_wf_iff_external : (Instr.mksel x).wf = true ↔ x = .sx0 ∨ x = .sx1 := by
  simp [Instr.wf]

theorem exec_mksel_of_seed (hx : x = .sx0 ∨ x = .sx1) (hs : s.seed ≠ []) :
    exec (.mksel x) s = .next (respond 0#16 (setSel s x (freshStream (selWord s.seed)))) :=
  (ifLegal_of_wf (mksel_wf_iff_external.mpr hx) _).trans (if_neg hs)

theorem exec_mksel_of_empty (hx : x = .sx0 ∨ x = .sx1) (hs : s.seed = []) :
    exec (.mksel x) s = .next (raise .configurationError 1#16 s) :=
  (ifLegal_of_wf (mksel_wf_iff_external.mpr hx) _).trans (if_pos hs)

/-- A register written and a response returned, with nothing else changed: the frame of MKSEL, ENC and DEC. -/
theorem onlySelector_respond_setSel (s : State) (x : Sel) (v : Stream) (d : Half) :
    OnlySelector x s (respond d (setSel s x v)) := by
  refine ⟨fun y hy => ?_, ?_, memRead_congr ?_, ?_, ?_, ?_, ?_, ?_, ?_⟩
  · rw [selSlot_respond, selSlot_setSel_of_ne s hy]
  all_goals simp

theorem exists_mksel_of_opcodeOf (h : opcodeOf i = 0x11#8) : ∃ x, i = .mksel x := by
  cases i with
  | mksel x => exact ⟨x, rfl⟩
  | _ => simp [opcodeOf] at h

/-- The opcode has two legal words, those of the external slots (R161). -/
theorem eq_mksel_word_of_decode (hop : opField w = 0x11#8) (h : decode w = some i) :
    w = encode (.mksel .sx0) ∨ w = encode (.mksel .sx1) := by
  obtain ⟨hwf, hfield, -, -⟩ := decode_eq_some_iff.mp h
  obtain ⟨x, rfl⟩ := exists_mksel_of_opcodeOf (hfield.symm.trans hop)
  obtain rfl | rfl := mksel_wf_iff_external.mp hwf
  · exact .inl (encode_of_decode h).symm
  · exact .inr (encode_of_decode h).symm

end Mksel

/-- Settles O27: the two cases of the seed, and the legal words of the opcode. -/
theorem mkselSeedsExternalSlot : Obligations.MkselSeedsExternalSlot := by
  have hsx0 : encode (.mksel .sx0) = 0x11020000#32 := by decide
  have hsx1 : encode (.mksel .sx1) = 0x11030000#32 := by decide
  refine ⟨hsx0, hsx1, fun w s hop h₀ h₁ => ?_, fun x s hx => ⟨fun hs => ?_, fun hs => ?_⟩⟩
  · refine performWord_of_illegal s (Option.eq_none_iff_forall_ne_some.mpr fun i hi => ?_)
    obtain hw | hw := eq_mksel_word_of_decode hop hi
    · exact h₀ (hw.trans hsx0)
    · exact h₁ (hw.trans hsx1)
  · refine ⟨_, exec_mksel_of_seed hx hs, ?_, ?_, onlySelector_respond_setSel ..⟩
    · rw [selSlot_respond, selSlot_setSel_same]
      rfl
    · rw [respond_responses, setSel_responses]
      rfl
  · rw [exec_mksel_of_empty hx hs]
    rfl

/-! ### The stream of draws -/

/-- The index fits NUMPADS' 16 bits, so that the word loses nothing of the remainder (R164). -/
theorem drawIndex_toNat {n : Half} (hn : n ≠ 0#16) (st : Stream) :
    (drawIndex n st).toNat = (Config.prngOut32 (Config.prngStep st.cur)).toNat % n.toNat := by
  rw [drawIndex, BitVec.toNat_ofNat]
  exact Nat.mod_eq_of_lt ((Nat.mod_lt _ (BitVec.toNat_pos_of_ne_zero hn)).trans n.isLt)

/-- Draws only step the register's word and count themselves (R165, R166). -/
theorem advance_iterate (st : Stream) (k : Nat) :
    advance^[k] st = { cur := Config.prngStep^[k] st.cur, w0 := st.w0, draws := st.draws + k } := by
  induction k with
  | zero => rfl
  | succ k ih =>
    rw [Function.iterate_succ_apply', Function.iterate_succ_apply', ih]
    rfl

/-- Settles O28: the index is a remainder by NUMPADS. -/
theorem drawIndexBelowNumPads : Obligations.DrawIndexBelowNumPads := by
  intro n st hn
  rw [drawIndex_toNat hn]
  exact Nat.mod_lt _ (BitVec.toNat_pos_of_ne_zero hn)

/-- Settles O29: `advance_iterate` from a register just seeded, and one step more for the index. -/
theorem streamStateAfterDraws : Obligations.StreamStateAfterDraws := by
  intro w k n hn
  have hk : advance^[k] (freshStream w) = { cur := Config.prngStep^[k] w, w0 := w, draws := k } := by
    simp [advance_iterate]
  exact ⟨hk, by rw [drawIndex_toNat hn, hk, Function.iterate_succ_apply']⟩

/-! ### The draw of an ENC or DEC -/

/-- Where an ENC or DEC completes while ACTIVE, a valid register has taken one draw and one not valid is still not
valid, whatever NUMPADS, the byte and the direction are (R164, R167). -/
theorem selSlot_exec_cipherInstr {d : Dir} {x : Sel} {b : Byte} {s t : State} (hp : s.phase = .active)
    (hd : mayName d x = true) (h : exec (cipherInstr d x b) s = .next t) :
    selSlot t x = (selSlot s x).map advance := by
  rw [exec_cipherInstr hd] at h
  obtain ⟨he, -⟩ | ⟨-, hx, rfl⟩ | ⟨st, c, -, hx, -, -, rfl⟩ := substitute_next h
  · simp [hp] at he
  · rw [selSlot_raise, hx, Option.map_none]
  · rw [selSlot_respond, selSlot_setSel_same, hx, Option.map_some]

/-- Settles O30: register `x` after the draw is a function of register `x` before it. -/
theorem drawnStateIgnoresNumPads : Obligations.DrawnStateIgnoresNumPads := by
  intro x d₁ d₂ b₁ b₂ s₁ s₂ t₁ t₂ hp₁ hp₂ hx hd₁ hd₂ h₁ h₂
  have ht₁ := selSlot_exec_cipherInstr hp₁ hd₁ h₁
  have ht₂ := selSlot_exec_cipherInstr hp₂ hd₂ h₂
  refine ⟨by rw [ht₁, ht₂, hx], fun st hst => ?_⟩
  rw [ht₁, hst]
  rfl

end Sys2Proof.Proofs
end

section
/-! PROOFS of the statements of spec/43_cipher_engine.md: the faults of ENC and DEC, the table entry they answer, runs
over byte strings, words between those of a run, and the round trip. -/

namespace Sys2Proof.Proofs

open Sys2Proof.Machine

/-! ### The draw and the lookup -/

section Draw

variable {d : Dir} {x : Sel} {b c : Byte} {s : State} {st v v' : Stream} {ws ws' : List Word}

/-- `s` with register `x` holding `v` and the words `ws` returned: what ENC and DEC naming `x` come to (R181, R185). -/
def answered (s : State) (x : Sel) (v : Stream) (ws : List Word) : State :=
  { setSel s x v with responses := s.responses ++ ws }

@[simp] theorem answered_responses : (answered s x v ws).responses = s.responses ++ ws := rfl

@[simp] theorem answered_padMem : (answered s x v ws).padMem = s.padMem := setSel_padMem ..

@[simp] theorem answered_phase : (answered s x v ws).phase = s.phase := setSel_phase ..

@[simp] theorem answered_err : (answered s x v ws).err = s.err := setSel_err ..

@[simp] theorem answered_numPads : (answered s x v ws).numPads = s.numPads := setSel_numPads ..

@[simp] theorem selSlot_answered_same : selSlot (answered s x v ws) x = some v := by cases x <;> rfl

theorem answered_answered : answered (answered s x v ws) x v' ws' = answered s x v' (ws ++ ws') := by
  cases x <;> simp [answered, setSel]

/-- A register written with its own content, and nothing returned. -/
theorem answered_nil_of_selSlot (hx : selSlot s x = some v) : answered s x v [] = s := by
  cases x <;> simp [answered, setSel, ← hx, selSlot]

theorem respond_setSel (s : State) (x : Sel) (v : Stream) (n : Half) :
    respond n (setSel s x v) = answered s x v [responseWord 0#4 n] := by
  rw [respond, returnWord, answered, setSel_responses]

theorem onlySelector_answered (s : State) (x : Sel) (v : Stream) (ws : List Word) :
    OnlySelector x s (answered s x v ws) :=
  onlySelector_respond_setSel s x v 0#16

/-- The response word of a data byte: code 0 and the byte, every other bit zero (R97). -/
theorem responseWord_of_byte (c : Byte) : responseWord 0#4 (0#8 ++ c) = 0#24 ++ c := by
  apply BitVec.eq_of_toNat_eq
  simp only [responseWord, bitVec_toNat_append_eq_add]
  simp

/-! The three outcomes of a draw and lookup: two faults, and the table byte where it has a value (R181, R182, R184). -/

theorem substitute_of_empty (hp : s.phase = .empty) :
    substitute d x b s = .next (raise .stateError (phaseInfo s) s) := if_pos hp

theorem substitute_of_invalid (hp : s.phase = .active) (hx : selSlot s x = none) :
    substitute d x b s = .next (raise .selectorInvalid (selInfo x) s) := by
  simp [substitute, hp, hx]

theorem substitute_of_padByte (hp : s.phase = .active) (hx : selSlot s x = some st) (hn : s.numPads ≠ 0#16)
    (hc : padByte s d (drawIndex s.numPads st) b = some c) :
    substitute d x b s = .next (answered s x (advance st) [0#24 ++ c]) := by
  have hread : memRead s (cipherAddr d s st b) = some c := hc
  rw [← responseWord_of_byte, ← respond_setSel]
  simp [substitute, hp, hx, hn, hread]

/-- A table byte that has a value is the answer, the register takes one draw, and nothing else changes. -/
theorem exec_cipherInstr_reads_table (hd : mayName d x = true) (hp : s.phase = .active) (hx : selSlot s x = some st)
    (hn : s.numPads ≠ 0#16) (hc : padByte s d (drawIndex s.numPads st) b = some c) :
    ∃ t, exec (cipherInstr d x b) s = .next t ∧ t.responses = s.responses ++ [0#24 ++ c] ∧
      selSlot t x = some (advance st) ∧ OnlySelector x s t :=
  ⟨_, (exec_cipherInstr hd b s).trans (substitute_of_padByte hp hx hn hc), rfl, selSlot_answered_same,
    onlySelector_answered ..⟩

theorem mayName_fwd (hx : x ≠ .sdec) : mayName .fwd x = true := bne_iff_ne.mpr hx

theorem mayName_inv (hx : x ≠ .senc) : mayName .inv x = true := bne_iff_ne.mpr hx

end Draw

/-- Settles O32: the forward direction of `exec_cipherInstr_reads_table`. -/
theorem encReadsForwardTable : Obligations.EncReadsForwardTable :=
  fun _ _ _ _ _ hx hp hst hn hc => exec_cipherInstr_reads_table (mayName_fwd hx) hp hst hn hc

/-- Settles O33: the inverse direction of `exec_cipherInstr_reads_table`. -/
theorem decReadsInverseTable : Obligations.DecReadsInverseTable :=
  fun _ _ _ _ _ hx hp hst hn hc => exec_cipherInstr_reads_table (mayName_inv hx) hp hst hn hc

/-! ### The tables of a live context -/

section LiveContext

variable {d : Dir} {x : Sel} {b : Byte} {s t : State} {st : Stream} {p : Half} {ws : List Word}

/-- The entry of a pad's table at a byte; 0 where the byte of pad memory has no value, which is in no pad of a live
context (`padByte_eq_tableByte`). -/
def tableByte (s : State) (d : Dir) (p : Half) (b : Byte) : Byte := (padByte s d p b).getD 0#8

theorem tableByte_congr (h : padByte s d p b = padByte t d p b) : tableByte s d p b = tableByte t d p b := by
  rw [tableByte, tableByte, h]

theorem padByte_eq_tableByte (h : PadsInverse s) (hp : p.toNat < s.numPads.toNat) (d : Dir) (b : Byte) :
    padByte s d p b = some (tableByte s d p b) := by
  obtain ⟨⟨y, hy, -⟩, z, hz, -⟩ := h p hp b
  cases d with
  | fwd => rw [tableByte, hy, Option.getD_some]
  | inv => rw [tableByte, hz, Option.getD_some]

theorem tableByte_inv_fwd (h : PadsInverse s) (hp : p.toNat < s.numPads.toNat) (b : Byte) :
    tableByte s .inv p (tableByte s .fwd p b) = b := by
  obtain ⟨⟨y, hy, hyb⟩, -⟩ := h p hp b
  simp [tableByte, hy, hyb]

theorem tableByte_fwd_inv (h : PadsInverse s) (hp : p.toNat < s.numPads.toNat) (b : Byte) :
    tableByte s .fwd p (tableByte s .inv p b) = b := by
  obtain ⟨-, z, hz, hzb⟩ := h p hp b
  simp [tableByte, hz, hzb]

/-- While ACTIVE NUMPADS is not 0, so every draw names a pad of the context (R36, R169). -/
theorem drawIndex_lt_of_stateInv (h : StateInv s) (hp : s.phase = .active) (st : Stream) :
    (drawIndex s.numPads st).toNat < s.numPads.toNat :=
  drawIndexBelowNumPads _ st (h.active_config hp).1

theorem padByte_drawIndex (h : StateInv s) (hp : s.phase = .active) (d : Dir) (st : Stream) (b : Byte) :
    padByte s d (drawIndex s.numPads st) b = some (tableByte s d (drawIndex s.numPads st) b) :=
  padByte_eq_tableByte (h.active_pads hp) (drawIndex_lt_of_stateInv h hp st) d b

/-- Under a live context a draw of a valid register neither stops nor faults. -/
theorem substitute_of_stateInv (h : StateInv s) (hp : s.phase = .active) (hx : selSlot s x = some st) (d : Dir)
    (b : Byte) :
    substitute d x b s =
      .next (answered s x (advance st) [0#24 ++ tableByte s d (drawIndex s.numPads st) b]) :=
  substitute_of_padByte hp hx (h.active_config hp).1 (padByte_drawIndex h hp d st b)

theorem exec_cipherInstr_of_stateInv (h : StateInv s) (hp : s.phase = .active) (hd : mayName d x = true)
    (hx : selSlot s x = some st) (b : Byte) :
    exec (cipherInstr d x b) s =
      .next (answered s x (advance st) [0#24 ++ tableByte s d (drawIndex s.numPads st) b]) :=
  (exec_cipherInstr hd b s).trans (substitute_of_stateInv h hp hx d b)

theorem stateInv_answered_advance (h : StateInv s) (hp : s.phase = .active) (hx : selSlot s x = some st)
    (ws : List Word) : StateInv (answered s x (advance st) ws) :=
  stateInv_frame (stateInv_drawn h hp hx) (by rw [answered_err]; exact h.err_range) rfl

end LiveContext

/-! ### The faults -/

section Faults

variable {w : Word} {d : Dir} {x : Sel} {s : State}

theorem decode_enc_illegal (hop : opField w = 0x20#8)
    (h : aField w ∉ [0#8, 2#8, 3#8] ∨ immHigh (immField w) ≠ 0#8) : decode w = none := by
  simpa [decode, decodeFields, hop] using decodeEnc_eq_none_iff.mpr h

theorem decode_dec_illegal (hop : opField w = 0x21#8)
    (h : aField w ∉ [1#8, 2#8, 3#8] ∨ immHigh (immField w) ≠ 0#8) : decode w = none := by
  simpa [decode, decodeFields, hop] using decodeDec_eq_none_iff.mpr h

theorem immHigh_immField (w : Word) : immHigh (immField w) = w.extractLsb' 8 8 :=
  immField_extractLsb' w (Nat.le_refl 8)

/-- While EMPTY the info of a StateError is 0 (spec/30_encoding.md R98). -/
theorem stateError_word_of_empty (hp : s.phase = .empty) :
    responseWord (faultNumber .stateError) (phaseInfo s) = 0x40000000#32 := by
  rw [phaseInfo, hp]
  decide

theorem selectorInvalid_word (x : Sel) :
    responseWord (faultNumber .selectorInvalid) (selInfo x) =
      BitVec.ofNat 32 (0x60000000 + (selNumber x).toNat) := by
  cases x <;> decide

theorem exec_cipherInstr_of_empty (hd : mayName d x = true) (hp : s.phase = .empty) (b : Byte) :
    exec (cipherInstr d x b) s =
      .next { s with err := 4#4, responses := s.responses ++ [0x40000000#32] } := by
  rw [exec_cipherInstr hd, substitute_of_empty hp, raise, stateError_word_of_empty hp]
  rfl

theorem exec_cipherInstr_of_invalid (hd : mayName d x = true) (hp : s.phase = .active) (hx : selSlot s x = none)
    (b : Byte) :
    exec (cipherInstr d x b) s = .next { s with
      err := 6#4, responses := s.responses ++ [BitVec.ofNat 32 (0x60000000 + (selNumber x).toNat)] } := by
  rw [exec_cipherInstr hd, substitute_of_invalid hp hx, raise, selectorInvalid_word]
  rfl

/-- A valid register a direction may name is answered a byte under a live context. -/
theorem exec_cipherInstr_answers (h : StateInv s) (hp : s.phase = .active) (hd : mayName d x = true)
    (hx : selValid s x = true) (b : Byte) :
    ∃ (t : State) (c : Byte), exec (cipherInstr d x b) s = .next t ∧ t.responses = s.responses ++ [0#24 ++ c] := by
  obtain ⟨st, hst⟩ := Option.isSome_iff_exists.mp hx
  exact ⟨_, _, exec_cipherInstr_of_stateInv h hp hd hst b, rfl⟩

end Faults

/-- Settles O34: illegal words by the decoder's rows, the two faults in both directions, and no fault of a built-in
register, which is valid while ACTIVE. -/
theorem cipherFaultsInOrder : Obligations.CipherFaultsInOrder := by
  intro s
  refine ⟨fun w hop h => ?_, fun w hop h => ?_, fun b => ⟨fun x hx hp => ?_, fun x hx hp => ?_,
    fun x hx hp hst => ?_, fun x hx hp hst => ?_, fun h hp => ?_⟩⟩
  · rw [← immHigh_immField] at h
    exact performWord_of_illegal s (decode_enc_illegal hop h)
  · rw [← immHigh_immField] at h
    exact performWord_of_illegal s (decode_dec_illegal hop h)
  · exact exec_cipherInstr_of_empty (mayName_fwd hx) hp b
  · exact exec_cipherInstr_of_empty (mayName_inv hx) hp b
  · exact exec_cipherInstr_of_invalid (mayName_fwd hx) hp hst b
  · exact exec_cipherInstr_of_invalid (mayName_inv hx) hp hst b
  · obtain ⟨henc, hdec⟩ := h.active_builtins hp
    exact ⟨exec_cipherInstr_answers h hp (mayName_fwd (by decide)) henc b,
      exec_cipherInstr_answers h hp (mayName_inv (by decide)) hdec b⟩

/-- Settles O35: the index is the one of the register's next draw, and the state after it is `s` with the register
advanced, whatever the byte. -/
theorem cipherPermutesDataByte : Obligations.CipherPermutesDataByte := by
  intro s x h hp hx
  obtain ⟨st, hst⟩ := Option.isSome_iff_exists.mp hx
  have hlt := drawIndex_lt_of_stateInv h hp st
  have hinvfwd := tableByte_inv_fwd (h.active_pads hp) hlt
  have hfwdinv := tableByte_fwd_inv (h.active_pads hp) hlt
  exact ⟨drawIndex s.numPads st, tableByte s .fwd (drawIndex s.numPads st), tableByte s .inv (drawIndex s.numPads st),
    setSel s x (advance st),
    Function.bijective_iff_has_inverse.mpr ⟨_, hinvfwd, hfwdinv⟩,
    Function.bijective_iff_has_inverse.mpr ⟨_, hfwdinv, hinvfwd⟩,
    fun b => ⟨hinvfwd b, hfwdinv b⟩,
    fun b => ⟨padByte_drawIndex h hp .fwd st b, padByte_drawIndex h hp .inv st b⟩,
    fun hx b => exec_cipherInstr_of_stateInv h hp (mayName_fwd hx) hst b,
    fun hx b => exec_cipherInstr_of_stateInv h hp (mayName_inv hx) hst b⟩

/-! ### The closed form of a draw -/

section ClosedForm

variable {d : Dir} {x : Sel} {s : State} {st : Stream}

/-- A register that meets the law of R35 still meets it after any number of draws (R166). -/
theorem advance_iterate_of_law (h : st.cur = Config.prngStep^[st.draws] st.w0) (k : Nat) :
    advance^[k] st = { cur := Config.prngStep^[st.draws + k] st.w0, w0 := st.w0, draws := st.draws + k } := by
  rw [advance_iterate, h, Nat.add_comm st.draws k, Function.iterate_add_apply, Nat.add_comm k]

/-- R186: the index of the draw after `k` more, from the word the register was seeded with. -/
theorem drawIndex_advance_iterate_of_law (h : st.cur = Config.prngStep^[st.draws] st.w0) (n : Half) (k : Nat) :
    drawIndex n (advance^[k] st) =
      BitVec.ofNat 16 ((Config.prngOut32 (Config.prngStep^[st.draws + k + 1] st.w0)).toNat % n.toNat) := by
  rw [advance_iterate_of_law h, Function.iterate_succ_apply']
  rfl

/-- Two registers seeded with the same word and drawn equally often are equal (R189). -/
theorem stream_eq_of_law {u v : Stream} (hu : u.cur = Config.prngStep^[u.draws] u.w0)
    (hv : v.cur = Config.prngStep^[v.draws] v.w0) (hw : u.w0 = v.w0) (hk : u.draws = v.draws) : u = v := by
  have hcur : u.cur = v.cur := by rw [hu, hv, hw, hk]
  cases u
  cases v
  simp_all

theorem cipherInstr_closed_form (h : StateInv s) (hp : s.phase = .active) (hd : mayName d x = true)
    (hx : selSlot s x = some st) (b : Byte) :
    ∃ t c, exec (cipherInstr d x b) s = .next t ∧
      padByte s d (BitVec.ofNat 16
        ((Config.prngOut32 (Config.prngStep^[st.draws + 1] st.w0)).toNat % s.numPads.toNat)) b = some c ∧
      t.responses = s.responses ++ [0#24 ++ c] := by
  have hidx := drawIndex_advance_iterate_of_law (h.streams x st hx) s.numPads 0
  exact ⟨_, _, exec_cipherInstr_of_stateInv h hp hd hx b, hidx ▸ padByte_drawIndex h hp d st b, rfl⟩

end ClosedForm

/-- Settles O36: both directions of `cipherInstr_closed_form`. -/
theorem cipherClosedForm : Obligations.CipherClosedForm := by
  rintro s x st b _ h hp hst rfl
  exact ⟨fun hx => cipherInstr_closed_form h hp (mayName_fwd hx) hst b,
    fun hx => cipherInstr_closed_form h hp (mayName_inv hx) hst b⟩

/-! ### Runs over byte strings -/

section Runs

variable {d : Dir} {x : Sel} {b : Byte} {bs : List Byte} {e : HostEvent} {es fs : List HostEvent} {s t u : State}
  {st : Stream}

/-- The bytes a run over `bs` answers from the register content `st`: the `i`-th by the table of the `i`-th draw. -/
def cipherBytes (s : State) (d : Dir) (st : Stream) (bs : List Byte) : List Byte :=
  bs.mapIdx fun i b => tableByte s d (drawIndex s.numPads (advance^[i] st)) b

@[simp] theorem cipherBytes_length : (cipherBytes s d st bs).length = bs.length := List.length_mapIdx

theorem cipherBytes_cons : cipherBytes s d st (b :: bs) =
    tableByte s d (drawIndex s.numPads st) b :: cipherBytes s d (advance st) bs := List.mapIdx_cons

/-- The tables and the modulus are all a run reads beside the register. -/
theorem cipherBytes_congr (hm : t.padMem = s.padMem) (hn : t.numPads = s.numPads) :
    cipherBytes t d st bs = cipherBytes s d st bs := by
  have hbyte : ∀ p b, tableByte t d p b = tableByte s d p b := fun p b => tableByte_congr (memRead_congr hm _)
  simp only [cipherBytes, hn, hbyte]

/-- The word of a command is performed by its meaning. -/
theorem performEvent_encode {i : Instr} (h : i.wf = true) (s : State) :
    performEvent (.word (encode i)) s = exec i s := by
  simp [performEvent, performWord, decode_encode, h]

/-- R185, R186: a whole run, its responses and its state at once. -/
theorem performEvents_cipherEvents (h : StateInv s) (hp : s.phase = .active) (hd : mayName d x = true)
    (hx : selSlot s x = some st) (bs : List Byte) :
    performEvents (cipherEvents d x bs) s =
      .next (answered s x (advance^[bs.length] st) ((cipherBytes s d st bs).map fun c => 0#24 ++ c)) := by
  induction bs generalizing s st with
  | nil => exact congrArg Host.Outcome.next (answered_nil_of_selSlot hx).symm
  | cons b bs ih =>
    have hfirst : performEvent (.word (encode (cipherInstr d x b))) s =
        .next (answered s x (advance st) [0#24 ++ tableByte s d (drawIndex s.numPads st) b]) :=
      (performEvent_encode (cipherInstr_wf hd b) s).trans (exec_cipherInstr_of_stateInv h hp hd hx b)
    calc performEvents (cipherEvents d x (b :: bs)) s
      _ = performEvents (cipherEvents d x bs) _ := performEvents_cons hfirst
      _ = _ := ih (stateInv_answered_advance h hp hx _) (answered_phase.trans hp) selSlot_answered_same
      _ = _ := by
        rw [answered_answered, cipherBytes_congr answered_padMem answered_numPads, cipherBytes_cons]
        rfl

/-- The byte a response carries is read back from it (R97). -/
theorem responseByte_append (c : Byte) : responseByte (0#24 ++ c) = c := BitVec.extractLsb'_append_eq_right

theorem newResponses_eq_of_responses {ws : List Word} (h : t.responses = s.responses ++ ws) :
    newResponses s t = ws := by
  rw [newResponses, h, List.drop_left]

theorem newBytes_eq_of_responses {out : List Byte} (h : t.responses = s.responses ++ out.map fun c => 0#24 ++ c) :
    newBytes s t = out := by
  simp [newBytes, newResponses_eq_of_responses h, Function.comp_def, responseByte_append]

theorem performEvents_cons_next (h : performEvents (e :: es) s = .next t) :
    ∃ u, performEvent e s = .next u ∧ performEvents es u = .next t := by
  unfold performEvents at h
  split at h
  · next u hu => exact ⟨u, hu, h⟩
  · cases h
  · cases h

/-- A run over two lists of events is the run over the first and then the run over the second. -/
theorem performEvents_append (h : performEvents es s = .next t) :
    performEvents (es ++ fs) s = performEvents fs t := by
  induction es generalizing s with
  | nil => cases h; rfl
  | cons e es ih =>
    obtain ⟨u, hu, h⟩ := performEvents_cons_next h
    exact (performEvents_cons hu).trans (ih h)

/-- What has been returned stays returned (R318). -/
theorem performEvent_responses_isPrefix (h : performEvent e s = .next t) : s.responses <+: t.responses := by
  cases e with
  | reset => cases h; exact ⟨[], List.append_nil _⟩
  | word w =>
    obtain ⟨f, n, rfl⟩ | ⟨i, u, d, -, he, rfl⟩ := performWord_raises_or_responds h
    · exact ⟨_, rfl⟩
    · rw [respond_responses, okEffect_responses he]
      exact ⟨_, rfl⟩

theorem performEvents_responses_isPrefix (h : performEvents es s = .next t) : s.responses <+: t.responses := by
  induction es generalizing s with
  | nil => cases h; exact ⟨[], List.append_nil _⟩
  | cons e es ih =>
    obtain ⟨u, hu, h⟩ := performEvents_cons_next h
    exact (performEvent_responses_isPrefix hu).trans (ih h)

theorem newBytes_append (hst : s.responses <+: t.responses) (htu : t.responses <+: u.responses) :
    newBytes s u = newBytes s t ++ newBytes t u := by
  obtain ⟨rs, hrs⟩ := hst
  obtain ⟨qs, hqs⟩ := htu
  simp [newBytes, newResponses, ← hqs, ← hrs]

end Runs

/-- Settles O37: the closed form is `performEvents_cipherEvents` read field by field, and splitting is
`performEvents_append`. -/
theorem chunkBoundaryTransparency : Obligations.ChunkBoundaryTransparency := by
  refine fun d x => ⟨fun s st bs h hp hd hx => ?_, fun bs cs s t u hst htu => ⟨?_, ?_⟩⟩
  · have hlaw := h.streams x st hx
    refine ⟨_, cipherBytes s d st bs, performEvents_cipherEvents h hp hd hx bs, rfl, cipherBytes_length,
      fun i hi => ?_, ?_, onlySelector_answered ..⟩
    · rw [← drawIndex_advance_iterate_of_law hlaw, padByte_drawIndex h hp, cipherBytes, List.getElem?_mapIdx,
        List.getElem?_eq_getElem hi, Option.map_some]
    · rw [selSlot_answered_same, advance_iterate_of_law hlaw]
  · have happend : cipherEvents d x (bs ++ cs) = cipherEvents d x bs ++ cipherEvents d x cs := by
      simp [cipherEvents, wordEvents]
    rw [happend, performEvents_append hst, htu]
  · exact newBytes_append (performEvents_responses_isPrefix hst) (performEvents_responses_isPrefix htu)

/-! ### No event stops under the invariants -/

section Completion

variable {r r' : Result} {s : State}

theorem completes_next (s : State) : Completes (.next s) := ⟨s, rfl⟩

theorem completes_ite {c : Prop} [Decidable c] (h : Completes r) (h' : Completes r') :
    Completes (if c then r else r') := by
  split
  · exact h
  · exact h'

theorem completes_ifLegal (i : Instr) (s : State) (h : Completes r) : Completes (ifLegal i s r) :=
  completes_ite h (completes_next _)

/-- The two stops of a draw and lookup are in no state that meets the invariants (spec/20_memory.md R76, R164). -/
theorem substitute_completes (h : StateInv s) (d : Dir) (x : Sel) (b : Byte) : Completes (substitute d x b s) := by
  cases hp : s.phase with
  | empty => exact ⟨_, substitute_of_empty hp⟩
  | active =>
    cases hx : selSlot s x with
    | none => exact ⟨_, substitute_of_invalid hp hx⟩
    | some st => exact ⟨_, substitute_of_stateInv h hp hx d b⟩

theorem exec_completes (h : StateInv s) (i : Instr) : Completes (exec i s) := by
  cases i with
  | nop | seedclr | destroy => exact completes_next _
  | seedb b => exact completes_ite (completes_next _) (completes_next _)
  | rdcsr c => exact completes_ifLegal (.rdcsr c) s (completes_next _)
  | wrcsr c n => exact completes_ifLegal _ s (completes_ite (completes_next _) (completes_next _))
  | init =>
    exact completes_ite (completes_next _)
      (completes_ite (completes_next _) (completes_ite (completes_next _) (completes_next _)))
  | mksel x => exact completes_ifLegal _ s (completes_ite (completes_next _) (completes_next _))
  | enc x b => exact completes_ifLegal _ s (substitute_completes h .fwd x b)
  | dec x b => exact completes_ifLegal _ s (substitute_completes h .inv x b)

theorem performEvent_completes (h : StateInv s) (e : HostEvent) : Completes (performEvent e s) := by
  cases e with
  | reset => exact completes_next _
  | word w =>
    change Completes (performWord w s)
    unfold performWord
    split
    · exact exec_completes h _
    · exact completes_next _

theorem performEvent_stateInv {e : HostEvent} {t : State} (h : StateInv s) (ht : performEvent e s = .next t) :
    StateInv t := by
  cases e with
  | reset => cases ht; exact stateInv_resetBlock s
  | word w => exact performWord_stateInv h ht

theorem stateInv_of_exec {i : Instr} {t : State} (h : StateInv s) (ht : exec i s = .next t) : StateInv t := by
  obtain ⟨f, n, rfl⟩ | ⟨u, d, he, rfl⟩ := exec_next ht
  · exact stateInv_raise h f n
  · exact stateInv_respond (okEffect_stateInv he h) d

end Completion

/-! ### Words between those of a run -/

section Interleaving

variable {x : Sel} {i : Instr} {d : Half} {e : HostEvent} {es : List HostEvent} {s s' t u : State}

/-- Two states in which ENC and DEC naming `x` are answered alike: PHASE, NUMPADS, pad memory and register `x` are all
their responses depend on. -/
structure SameStream (x : Sel) (s t : State) : Prop where
  phase : t.phase = s.phase
  numPads : t.numPads = s.numPads
  padMem : t.padMem = s.padMem
  slot : selSlot t x = selSlot s x

theorem SameStream.rfl : SameStream x s s := ⟨.refl _, .refl _, .refl _, .refl _⟩

theorem SameStream.symm (h : SameStream x s t) : SameStream x t s :=
  ⟨h.phase.symm, h.numPads.symm, h.padMem.symm, h.slot.symm⟩

theorem SameStream.trans (h : SameStream x s t) (h' : SameStream x t u) : SameStream x s u :=
  ⟨h'.phase.trans h.phase, h'.numPads.trans h.numPads, h'.padMem.trans h.padMem, h'.slot.trans h.slot⟩

theorem sameStream_raise (f : FaultCode) (n : Half) (s : State) : SameStream x s (raise f n s) :=
  ⟨raise_phase .., raise_numPads .., raise_padMem .., selSlot_raise ..⟩

theorem sameStream_respond (n : Half) (s : State) : SameStream x s (respond n s) :=
  ⟨respond_phase .., respond_numPads .., respond_padMem .., selSlot_respond ..⟩

/-- An event of a run is the word of an ENC or DEC that may name `x`. -/
theorem exists_cipherInstr_of_usesStream (h : usesStream x e = true) :
    ∃ d b, mayName d x = true ∧ e = .word (encode (cipherInstr d x b)) := by
  cases e with
  | reset => cases h
  | word w =>
    cases hi : decode w with
    | none => simp [usesStream, hi] at h
    | some i =>
      have hwf := (decode_eq_some_iff.mp hi).1
      have hw := (encode_of_decode hi).symm
      cases i with
      | enc y b =>
        obtain rfl : y = x := by simpa [usesStream, hi] using h
        exact ⟨.fwd, b, hwf, congrArg _ hw⟩
      | dec y b =>
        obtain rfl : y = x := by simpa [usesStream, hi] using h
        exact ⟨.inv, b, hwf, congrArg _ hw⟩
      | _ => simp [usesStream, hi] at h

theorem okEffect_phase_of_active (he : OkEffect i s u d) (hp : s.phase = .active) (hd : i ≠ .destroy) :
    u.phase = s.phase := by
  cases he with
  | init => exact hp.symm
  | destroy => exact absurd rfl hd
  | _ => simp

/-- While ACTIVE the effect of a command other than DESTROY that does not name `x` leaves the stream of `x`. -/
theorem okEffect_sameStream (he : OkEffect i s u d) (hp : s.phase = .active) (hd : i ≠ .destroy)
    (hm : i ≠ .mksel x) (hc : ∀ b, i ≠ .enc x b ∧ i ≠ .dec x b) : SameStream x s u where
  phase := okEffect_phase_of_active he hp hd
  numPads := (okEffect_parameters he hd (.inl hp)).1
  padMem := by
    obtain hmem | ⟨-, hempty, -⟩ | ⟨hi, -⟩ := okEffect_padMem he
    · exact hmem
    · simp [hp] at hempty
    · exact absurd hi hd
  slot := by
    obtain hx | ⟨-, hempty, -⟩ | ⟨hi, -⟩ | ⟨b, -, hi, -⟩ | ⟨hi, -⟩ := okEffect_selSlot he x
    · exact hx
    · simp [hp] at hempty
    · exact absurd hi hm
    · exact absurd hi (not_or.mpr ⟨fun h => (hc b).1 h.1, fun h => (hc b).2 h.1⟩)
    · exact absurd hi hd

theorem ne_of_spares {w : Word} (h : spares x (.word w) = true) (hi : decode w = some i) :
    i ≠ .destroy ∧ i ≠ .mksel x ∧ ∀ b, i ≠ .enc x b ∧ i ≠ .dec x b := by
  refine ⟨?_, ?_, fun b => ⟨?_, ?_⟩⟩ <;> rintro rfl <;> simp [spares, hi] at h

/-- A word that spares `x` raises a fault or has an effect that leaves the stream of `x`. -/
theorem sameStream_of_spares (hp : s.phase = .active) (h : spares x e = true) (ht : performEvent e s = .next t) :
    SameStream x s t := by
  cases e with
  | reset => cases h
  | word w =>
    obtain ⟨f, n, rfl⟩ | ⟨i, u, d, hi, he, rfl⟩ := performWord_raises_or_responds ht
    · exact sameStream_raise f n s
    · obtain ⟨hd, hm, hc⟩ := ne_of_spares h hi
      exact (okEffect_sameStream he hp hd hm hc).trans (sameStream_respond d u)

/-- A response with a code other than 0 comes of a fault, which changes only ERR (spec/60_exceptions.md R262). -/
theorem sameStream_of_raisesFault (h : RaisesFault e s) (ht : performEvent e s = .next t) : SameStream x s t := by
  obtain ⟨t', r, ht', hr, hcode⟩ := h
  obtain rfl : t = t' := by simpa [ht] using ht'
  cases e with
  | reset => cases ht; simp at hr
  | word w =>
    obtain ⟨f, n, rfl⟩ | ⟨i, u, d, -, he, rfl⟩ := performWord_raises_or_responds ht
    · exact sameStream_raise f n s
    · obtain rfl : responseWord 0#4 d = r := by simpa [okEffect_responses he] using hr
      exact absurd (responseWord_code 0#4 d) hcode

/-- An ENC or DEC naming `x` is answered alike in both states, and they agree again after it. -/
theorem performEvent_sameStream (h : StateInv s) (h' : StateInv s') (hp : s.phase = .active)
    (hs : SameStream x s s') (hu : usesStream x e = true) :
    ∃ t t', performEvent e s = .next t ∧ performEvent e s' = .next t' ∧ t.phase = .active ∧
      newResponses s t = newResponses s' t' ∧ SameStream x t t' := by
  obtain ⟨d, b, hd, rfl⟩ := exists_cipherInstr_of_usesStream hu
  have hp' : s'.phase = .active := hs.phase.trans hp
  simp only [performEvent_encode (cipherInstr_wf hd b), exec_cipherInstr hd]
  cases hx : selSlot s x with
  | none =>
    have hx' : selSlot s' x = none := hs.slot.trans hx
    refine ⟨_, _, substitute_of_invalid hp hx, substitute_of_invalid hp' hx', hp, ?_,
      ((sameStream_raise ..).symm.trans hs).trans (sameStream_raise ..)⟩
    rw [newResponses_eq_of_responses (raise_responses ..), newResponses_eq_of_responses (raise_responses ..)]
  | some st =>
    have hx' : selSlot s' x = some st := hs.slot.trans hx
    refine ⟨_, _, substitute_of_stateInv h hp hx d b, substitute_of_stateInv h' hp' hx' d b, by simpa using hp, ?_,
      ⟨by simpa using hs.phase, by simpa using hs.numPads, by simpa using hs.padMem, by simp⟩⟩
    rw [newResponses_eq_of_responses answered_responses, newResponses_eq_of_responses answered_responses,
      hs.numPads, tableByte_congr (s := s') (memRead_congr hs.padMem _)]

theorem streamResponses_cons (h : performEvent e s = .next t) :
    streamResponses x (e :: es) s =
      (if usesStream x e then newResponses s t else []) ++ streamResponses x es t := by
  simp [streamResponses, h]

/-- Simulation: the run with the other words in the one state, the run without them in the other. -/
theorem streamResponses_filter (h : StateInv s) (h' : StateInv s') (hp : s.phase = .active) (hs : SameStream x s s')
    (hrun : StreamRun x es s) :
    streamResponses x es s = streamResponses x (es.filter (usesStream x)) s' := by
  induction es generalizing s s' with
  | nil => rfl
  | cons e es ih =>
    obtain ⟨hevent, hrest⟩ := hrun
    by_cases hu : usesStream x e = true
    · obtain ⟨t, t', ht, ht', htp, hnew, hst⟩ := performEvent_sameStream h h' hp hs hu
      rw [List.filter_cons_of_pos hu, streamResponses_cons ht, streamResponses_cons ht', hnew,
        ih (performEvent_stateInv h ht) (performEvent_stateInv h' ht') htp hst (hrest t ht)]
    · obtain ⟨t, ht⟩ := performEvent_completes h e
      have hst : SameStream x s t :=
        (hevent.resolve_left hu).elim (sameStream_of_spares hp · ht) (sameStream_of_raisesFault · ht)
      rw [List.filter_cons_of_neg hu, streamResponses_cons ht, if_neg hu, List.nil_append]
      exact ih (performEvent_stateInv h ht) h' (hst.phase.trans hp) (hst.symm.trans hs) (hrest t ht)

end Interleaving

/-- Settles O38: `streamResponses_filter` with both runs from the same state. -/
theorem interleavedWordsDoNotDisturbStream : Obligations.InterleavedWordsDoNotDisturbStream :=
  fun _ _ _ h hp hrun => streamResponses_filter h h hp .rfl hrun

/-! ### The round trip -/

section RoundTrip

variable {A B : State}

/-- Position by position the peer draws the same index, and its inverse table undoes the forward one (R149, R189). -/
theorem cipherBytes_inv_fwd (h : StateInv A) (hp : A.phase = .active) (hn : A.numPads = B.numPads)
    (hpads : ∀ (d : Dir) (p : Half) (x : Byte), p.toNat < A.numPads.toNat → padByte A d p x = padByte B d p x)
    (st : Stream) (bs : List Byte) : cipherBytes B .inv st (cipherBytes A .fwd st bs) = bs := by
  induction bs generalizing st with
  | nil => rfl
  | cons b bs ih =>
    have hlt := drawIndex_lt_of_stateInv h hp st
    rw [cipherBytes_cons, cipherBytes_cons, ih, ← hn, ← tableByte_congr (hpads _ _ _ hlt),
      tableByte_inv_fwd (h.active_pads hp) hlt]

end RoundTrip

/-- Settles O39: the two registers are equal by the law of R35, so that `cipherBytes_inv_fwd` applies to the bytes of
the two runs. -/
theorem roundTripBetweenPeers : Obligations.RoundTripBetweenPeers := by
  intro A B sa sb u v hA hB hpA hpB hsa hsb hu hv hw hk hn hpads bs
  obtain rfl := stream_eq_of_law (hA.streams sa u hu) (hB.streams sb v hv) hw hk
  have hruns := fun cs => performEvents_cipherEvents hB hpB (mayName_inv hsb) hv cs
  refine ⟨_, _, advance^[bs.length] u, advance^[bs.length] u,
    performEvents_cipherEvents hA hpA (mayName_fwd hsa) hu bs, hruns _, ?_, ?_, selSlot_answered_same, ?_, ?_, rfl⟩
  · rw [newBytes_eq_of_responses answered_responses, cipherBytes_length]
  · rw [newBytes_eq_of_responses answered_responses, newBytes_eq_of_responses answered_responses,
      cipherBytes_inv_fwd hA hpA hn hpads]
  · rw [selSlot_answered_same, newBytes_eq_of_responses answered_responses, cipherBytes_length]
  · rw [advance_iterate]

/-- Settles O40: INIT builds the same pads and seeds the built-in registers with the same word in both blocks, which
are then peers in step. -/
theorem roundTripAfterInit : Obligations.RoundTripAfterInit := by
  intro A₀ B₀ hA hB hpA hpB hseed hs hn hn₀ hqA hqB
  have hinitA := exec_init_of_configured hpA hs hn₀ hqA
  have hinitB := exec_init_of_configured hpB (hseed ▸ hs) (hn ▸ hn₀) hqB
  refine ⟨_, _, hinitA, hinitB, fun bs => ?_⟩
  have hpads : ∀ (d : Dir) (p : Half) (x : Byte), p.toNat < A₀.numPads.toNat →
      padByte (respond 0#16 (buildContext A₀)) d p x = padByte (respond 0#16 (buildContext B₀)) d p x :=
    fun d p x hlt => padByte_buildContext_congr hseed hlt (hn ▸ hlt) d x
  have hsenc : selSlot (respond 0#16 (buildContext A₀)) .senc = some (freshStream (selWord A₀.seed)) := by simp
  have hsdec : selSlot (respond 0#16 (buildContext B₀)) .sdec = some (freshStream (selWord A₀.seed)) := by
    simp [hseed]
  obtain ⟨A', B', -, -, henc, hdec, -, hback, -⟩ := roundTripBetweenPeers _ _ .senc .sdec _ _
    (stateInv_of_exec hA hinitA) (stateInv_of_exec hB hinitB) (respond_phase ..) (respond_phase ..) (by decide)
    (by decide) hsenc hsdec rfl rfl hn hpads bs
  exact ⟨A', B', henc, hdec, hback⟩

end Sys2Proof.Proofs
end

section
/-! PROOFS of the statements of spec/44_control.md: the control commands, the reset state DESTROY leaves, and the run
of commands that builds a context. -/

namespace Sys2Proof.Proofs

open Sys2Proof.Machine

/-! ### The words of the control commands -/

section Words

variable {w : Word}

/-- The immediate stands in the low bits of a command word, so it adds to the word without it
(spec/30_encoding.md R91). -/
theorem commandWord_eq_add (op a : Byte) (imm : Half) :
    commandWord op a imm = commandWord op a 0#16 + imm.setWidth 32 := by
  have hzero : (0#16).toNat = 0 := rfl
  apply BitVec.eq_of_toNat_eq
  simp only [commandWord, bitVec_toNat_append_eq_add, BitVec.toNat_add, BitVec.toNat_setWidth, hzero]
  omega

theorem setWidth_immOfByte (b : Byte) : (immOfByte b).setWidth 32 = b.setWidth 32 := by
  have hzero : (0#8).toNat = 0 := rfl
  apply BitVec.eq_of_toNat_eq
  simp only [immOfByte, BitVec.toNat_setWidth, bitVec_toNat_append_eq_add, hzero, Nat.zero_mul, Nat.zero_add]

theorem encode_seedb (b : Byte) : encode (.seedb b) = 0x01000000#32 + b.setWidth 32 := by
  rw [← setWidth_immOfByte]
  exact commandWord_eq_add 0x01#8 0#8 (immOfByte b)

theorem encode_wrcsr_numpads (n : Half) : encode (.wrcsr .numpads n) = 0x04010000#32 + n.setWidth 32 :=
  commandWord_eq_add 0x04#8 1#8 n

theorem encode_wrcsr_qubits (n : Half) : encode (.wrcsr .qubits n) = 0x04020000#32 + n.setWidth 32 :=
  commandWord_eq_add 0x04#8 2#8 n

theorem encode_rdcsr (c : Csr) :
    encode (.rdcsr c) = 0x03000000#32 + (csrNumber c).setWidth 32 * 0x00010000#32 := by
  cases c <;> decide

/-! The illegal words of each opcode, from the rows of the decoder (spec/30_encoding.md R95). -/

theorem decode_seedb_illegal (hop : opField w = 0x01#8) (h : aField w ≠ 0#8 ∨ immHigh (immField w) ≠ 0#8) :
    decode w = none := by
  simpa [decode, decodeFields, hop] using decodeSeedb_eq_none_iff.mpr h

theorem decode_rdcsr_illegal (hop : opField w = 0x03#8) (h : 4 < (aField w).toNat ∨ immField w ≠ 0#16) :
    decode w = none := by
  simpa [decode, decodeFields, hop] using decodeRdcsr_eq_none_iff.mpr h

theorem decode_wrcsr_illegal (hop : opField w = 0x04#8)
    (h : aField w ∉ [1#8, 2#8] ∨ (aField w = 2#8 ∧ immHigh (immField w) ≠ 0#8)) : decode w = none := by
  simpa [decode, decodeFields, hop] using decodeWrcsr_eq_none_iff.mpr h

/-- NOP is the one legal word of its opcode (R200). -/
theorem decode_nop_illegal (hop : opField w = 0x00#8) (h : w ≠ 0x00000000#32) : decode w = none := by
  have hfields : aField w ≠ 0#8 ∨ immField w ≠ 0#16 := by
    by_contra! hzero
    exact h (word_eq_iff_fields.mpr ⟨hop, hzero⟩)
  simpa [decode, decodeFields, hop] using decodePlain_eq_none_iff.mpr hfields

end Words

/-- Settles O11: the word, the illegal words of its opcode, and a response of 0. -/
theorem nopOnlyResponds : Obligations.NopOnlyResponds :=
  ⟨by decide, fun _ hop h => decode_nop_illegal hop h, fun _ => rfl⟩

/-! ### The seed buffer -/

section SeedBuffer

variable {s : State}

/-- SEED_MAX fits the 16 bits of SEEDLEN (spec/00_scope.md R7). -/
theorem seedMax_lt : Config.seedMax < 2 ^ 16 := by
  have := Nat.mod_lt Config.seedMaxFree (show 0 < 65535 by decide)
  rw [Config.seedMax]
  omega

theorem seedLen_toNat (h : s.seed.length ≤ Config.seedMax) : (seedLen s).toNat = s.seed.length := by
  rw [seedLen, BitVec.toNat_ofNat, Nat.mod_eq_of_lt (Nat.lt_of_le_of_lt h seedMax_lt)]

/-- Where the buffer is full, SeedOverflow carries its capacity (R201, spec/60_exceptions.md R267). -/
theorem seedOverflow_word (h : s.seed.length = Config.seedMax) :
    responseWord (faultNumber .seedOverflow) (seedLen s) = BitVec.ofNat 32 (0x50000000 + Config.seedMax) := by
  rw [responseWord_eq_ofNat, seedLen_toNat (Nat.le_of_eq h), h]
  rfl

theorem exec_seedb_of_room (h : s.seed.length ≠ Config.seedMax) (b : Byte) :
    exec (.seedb b) s = .next (respond 0#16 (seedAppend s b)) := if_neg h

theorem exec_seedb_of_full (h : s.seed.length = Config.seedMax) (b : Byte) :
    exec (.seedb b) s = .next (raise .seedOverflow (seedLen s) s) := if_pos h

/-- Appending fills the index SEEDLEN, where a byte read zero before, and no other (R24). -/
theorem seedByte_seedAppend (s : State) (b : Byte) (k : Nat) :
    seedByte (seedAppend s b) k = if k = s.seed.length then b else seedByte s k := by
  simp only [seedByte, seedAppend_seed, List.getD_eq_getElem?_getD]
  obtain hk | rfl | hk := Nat.lt_trichotomy k s.seed.length
  · rw [List.getElem?_append_left hk, if_neg (Nat.ne_of_lt hk)]
  · rw [List.getElem?_concat_length, if_pos rfl, Option.getD_some]
  · rw [List.getElem?_eq_none (by simpa using hk), List.getElem?_eq_none (Nat.le_of_lt hk), if_neg (Nat.ne_of_gt hk)]

end SeedBuffer

/-- Settles O12: the decoder's row, then the two cases of the buffer. -/
theorem seedbAppendsOrOverflows : Obligations.SeedbAppendsOrOverflows := by
  refine ⟨fun w hop h => ?_, fun b s => ⟨encode_seedb b, fun hl => ⟨?_, seedByte_seedAppend s b⟩, fun hl => ?_⟩⟩
  · rw [← immHigh_immField] at h
    exact decode_seedb_illegal hop h
  · rw [exec_seedb_of_room hl]
    rfl
  · rw [exec_seedb_of_full hl, raise, seedOverflow_word hl]
    rfl

/-- Settles O13: the emptied buffer reads zero at every index. -/
theorem seedclrEmptiesBuffer : Obligations.SeedclrEmptiesBuffer :=
  ⟨by decide, fun s => ⟨respond 0#16 (seedClear s), rfl, fun _ => rfl, rfl, rfl⟩⟩

/-! ### The control registers -/

section ControlRegisters

variable {s : State} {c : Csr} {n : Half}

/-- The response of a command that ends well carries its data zero-extended (spec/30_encoding.md R97). -/
theorem responseWord_ok (d : Half) : responseWord 0#4 d = 0#16 ++ d := by
  have hzero : 0#4 ++ 0#12 = 0#16 := by decide
  rw [responseWord, hzero]

theorem exec_rdcsr (c : Csr) (s : State) : exec (.rdcsr c) s = .next (respond (csrRead s c) s) :=
  ifLegal_of_wf (s := s) (i := .rdcsr c) rfl _

theorem bit_eq_ofBool (c : Bool) : bit c = BitVec.ofBool c := by cases c <;> rfl

theorem phaseBit_eq_ofBool (p : Phase) : phaseBit p = BitVec.ofBool (decide (p = .active)) := by
  cases p <;> rfl

/-- STATUS as its fields appended, high bits first, with the width their sum (R30). -/
def statusFields (s : State) : BitVec (4 + 4 + 1 + 1 + 1 + 1 + 3 + 1) :=
  0#4 ++ s.err ++ BitVec.ofBool (selValid s .sx1) ++ BitVec.ofBool (selValid s .sx0)
    ++ BitVec.ofBool (selValid s .sdec) ++ BitVec.ofBool (selValid s .senc) ++ 0#3
    ++ BitVec.ofBool (decide (s.phase = .active))

theorem statusWord_eq_statusFields (s : State) : statusWord s = statusFields s := by
  simp only [statusWord, bit_eq_ofBool, phaseBit_eq_ofBool]
  rfl

theorem statusWord_getLsbD (s : State) (i : Nat) : (statusWord s).getLsbD i =
    if i = 0 then decide (s.phase = .active) else if i < 4 then false
    else if i = 4 then selValid s .senc else if i = 5 then selValid s .sdec
    else if i = 6 then selValid s .sx0 else if i = 7 then selValid s .sx1
    else if i < 12 then s.err.getLsbD (i - 8) else false := by
  rw [statusWord_eq_statusFields]
  simp only [statusFields, BitVec.getLsbD_append]
  match i with
  | 0 | 1 | 2 | 3 | 4 | 5 | 6 | 7 => simp
  | i + 8 => simp [show ¬ i + 7 < 3 by omega, show ¬ i + 8 < 4 by omega, show i + 8 < 12 ↔ i < 4 by omega]

/-- The fields of STATUS (R30). -/
theorem statusWord_fields (s : State) :
    (statusWord s).getLsbD 0 = decide (s.phase = .active) ∧ (statusWord s).extractLsb' 1 3 = 0#3 ∧
    (statusWord s).getLsbD 4 = selValid s .senc ∧ (statusWord s).getLsbD 5 = selValid s .sdec ∧
    (statusWord s).getLsbD 6 = selValid s .sx0 ∧ (statusWord s).getLsbD 7 = selValid s .sx1 ∧
    (statusWord s).extractLsb' 8 4 = s.err ∧ (statusWord s).extractLsb' 12 4 = 0#4 := by
  have hbit := statusWord_getLsbD s
  refine ⟨hbit 0, ?_, hbit 4, hbit 5, hbit 6, hbit 7, ?_, ?_⟩
  all_goals
    refine BitVec.eq_of_getLsbD_eq fun i hi => ?_
    rw [BitVec.getLsbD_extractLsb', hbit]
    interval_cases i <;> simp

theorem csrRead_qubits_toNat (s : State) : (csrRead s .qubits).toNat = s.qubits.toNat := by
  have hzero : (0#8).toNat = 0 := rfl
  rw [csrRead, bitVec_toNat_append_eq_add, hzero, Nat.zero_mul, Nat.zero_add]

/-- The high byte of an immediate is zero where its value fits the low byte. -/
theorem immHigh_eq_zero_of_lt (h : n.toNat < 256) : immHigh n = 0#8 := by
  apply BitVec.eq_of_toNat_eq
  rw [immHigh, BitVec.extractLsb'_toNat, Nat.shiftRight_eq_div_pow, Nat.div_eq_of_lt h]
  rfl

theorem wrcsr_qubits_wf_of_lt (h : n.toNat < 256) : (Instr.wrcsr .qubits n).wf = true :=
  wrcsr_wf_iff.mpr (.inr ⟨rfl, immHigh_eq_zero_of_lt h⟩)

theorem immLow_eq_setWidth (n : Half) : immLow n = n.setWidth 8 :=
  BitVec.eq_of_toNat_eq (by simp [immLow])

theorem exec_wrcsr_of_empty (hp : s.phase = .empty) (hw : (Instr.wrcsr c n).wf = true) :
    exec (.wrcsr c n) s = .next (respond 0#16 (csrWrite s c n)) :=
  (ifLegal_of_wf hw _).trans (if_neg (by rw [hp]; decide))

theorem exec_wrcsr_of_active (hp : s.phase = .active) (hw : (Instr.wrcsr c n).wf = true) :
    exec (.wrcsr c n) s = .next { s with err := 4#4, responses := s.responses ++ [0x40000001#32] } := by
  rw [← stateError_word_of_active hp]
  exact (ifLegal_of_wf hw _).trans (if_pos hp)

end ControlRegisters

/-- Settles O14: the decoder's row, the response word, and each register as `csrRead` gives it. -/
theorem rdcsrReturnsRegister : Obligations.RdcsrReturnsRegister := by
  refine ⟨fun w hop h => decode_rdcsr_illegal hop h, fun c s => ⟨csrRead s c, encode_rdcsr c, ?_, ?_⟩⟩
  · rw [exec_rdcsr, ← responseWord_ok]
    rfl
  · refine ⟨?_, ?_, ?_, ?_, ?_⟩ <;> rintro rfl
    · exact statusWord_fields s
    · rfl
    · exact csrRead_qubits_toNat s
    · exact seedLen_toNat
    · rfl

/-- Settles O15: the two writable registers in either phase, and the decoder's row. -/
theorem wrcsrWritesOrFaults : Obligations.WrcsrWritesOrFaults := by
  refine ⟨fun n => ⟨encode_wrcsr_numpads n, encode_wrcsr_qubits n⟩, fun s =>
    ⟨fun hp => ⟨fun n => exec_wrcsr_of_empty hp rfl, fun n hn => ?_⟩,
      fun hp => ⟨fun n => exec_wrcsr_of_active hp rfl,
        fun n hn => exec_wrcsr_of_active hp (wrcsr_qubits_wf_of_lt hn)⟩,
      fun w hop h => performWord_of_illegal s (decode_wrcsr_illegal hop ?_)⟩⟩
  · rw [exec_wrcsr_of_empty hp (wrcsr_qubits_wf_of_lt hn), ← immLow_eq_setWidth]
    rfl
  · rw [immHigh_immField]
    exact h.imp_left fun ⟨h₁, h₂⟩ => by simp [aField, h₁, h₂]

/-! ### The state DESTROY leaves -/

section Destroy

variable {s t : State}

/-- The block of `s` behind a host that has `ib` still to present and was given `ws` before what `s` records. -/
def behindHost (ib : List HostEvent) (ws : List Word) (s : State) : State :=
  { s with inbox := ib, responses := ws ++ s.responses }

/-- An outcome with the next state, where there is one, behind such a host. -/
def resultBehindHost (ib : List HostEvent) (ws : List Word) : Result → Result
  | .next s => .next (behindHost ib ws s)
  | .fault r => .fault r
  | .refused r => .refused r

variable {ib : List HostEvent} {ws : List Word}

theorem newResponses_behindHost (s t : State) :
    newResponses (behindHost ib ws s) (behindHost ib ws t) = newResponses s t := by
  simp [newResponses, behindHost, List.drop_append]

theorem selSlot_behindHost (s : State) (x : Sel) : selSlot (behindHost ib ws s) x = selSlot s x := by
  cases x <;> rfl

theorem csrRead_behindHost (s : State) (c : Csr) : csrRead (behindHost ib ws s) c = csrRead s c := by
  cases c <;> rfl

theorem cipherRead_behindHost (d : Dir) (s : State) (st : Stream) (b : Byte) :
    memRead (behindHost ib ws s) (cipherAddr d (behindHost ib ws s) st b) = memRead s (cipherAddr d s st b) := rfl

theorem respond_behindHost (d : Half) (s : State) :
    respond d (behindHost ib ws s) = behindHost ib ws (respond d s) := by
  simp [respond, returnWord, behindHost]

theorem raise_behindHost (f : FaultCode) (n : Half) (s : State) :
    raise f n (behindHost ib ws s) = behindHost ib ws (raise f n s) := by
  simp [raise, returnWord, behindHost]

theorem setSel_behindHost (s : State) (x : Sel) (v : Stream) :
    setSel (behindHost ib ws s) x v = behindHost ib ws (setSel s x v) := by
  cases x <;> rfl

theorem csrWrite_behindHost (s : State) (c : Csr) (n : Half) :
    csrWrite (behindHost ib ws s) c n = behindHost ib ws (csrWrite s c n) := by
  cases c <;> rfl

theorem next_respond_behindHost {u' : State} {u : State} (h : u' = behindHost ib ws u) (d : Half) :
    .next (respond d u') = resultBehindHost ib ws (.next (respond d u)) := by
  rw [h, respond_behindHost]
  rfl

theorem next_raise_behindHost (f : FaultCode) (n : Half) (s : State) :
    .next (raise f n (behindHost ib ws s)) = resultBehindHost ib ws (.next (raise f n s)) := by
  rw [raise_behindHost]
  rfl

theorem ite_behindHost {c : Prop} [Decidable c] {a a' b b' : Result} (ha : a' = resultBehindHost ib ws a)
    (hb : b' = resultBehindHost ib ws b) :
    (if c then a' else b') = resultBehindHost ib ws (if c then a else b) := by
  rw [ha, hb, apply_ite (resultBehindHost ib ws)]

theorem ifLegal_behindHost (i : Instr) (s : State) {a a' : Result} (ha : a' = resultBehindHost ib ws a) :
    ifLegal i (behindHost ib ws s) a' = resultBehindHost ib ws (ifLegal i s a) :=
  ite_behindHost ha (next_raise_behindHost .illegalCommand 0#16 s)

theorem substitute_behindHost (d : Dir) (x : Sel) (b : Byte) (s : State) :
    substitute d x b (behindHost ib ws s) = resultBehindHost ib ws (substitute d x b s) := by
  refine ite_behindHost (next_raise_behindHost ..) ?_
  rw [selSlot_behindHost]
  cases selSlot s x with
  | none => exact next_raise_behindHost ..
  | some st =>
    refine ite_behindHost rfl ?_
    rw [cipherRead_behindHost]
    cases memRead s (cipherAddr d s st b) with
    | none => rfl
    | some c => exact next_respond_behindHost (setSel_behindHost ..) _

/-- No command reads what the host has still to present or has been given. -/
theorem exec_behindHost (i : Instr) (s : State) :
    exec i (behindHost ib ws s) = resultBehindHost ib ws (exec i s) := by
  cases i with
  | nop => exact next_respond_behindHost rfl _
  | seedb b =>
    exact ite_behindHost (next_raise_behindHost ..) (next_respond_behindHost (u := seedAppend s b) rfl _)
  | seedclr => exact next_respond_behindHost (u := seedClear s) rfl _
  | rdcsr c =>
    rw [exec_rdcsr, exec_rdcsr, csrRead_behindHost]
    exact next_respond_behindHost rfl _
  | wrcsr c n =>
    exact ifLegal_behindHost _ s
      (ite_behindHost (next_raise_behindHost ..) (next_respond_behindHost (csrWrite_behindHost ..) _))
  | init =>
    exact ite_behindHost (next_raise_behindHost ..) (ite_behindHost (next_raise_behindHost ..)
      (ite_behindHost (next_raise_behindHost ..) (next_respond_behindHost (u := buildContext s) rfl _)))
  | mksel x =>
    exact ifLegal_behindHost _ s
      (ite_behindHost (next_raise_behindHost ..) (next_respond_behindHost (setSel_behindHost ..) _))
  | enc x b => exact ifLegal_behindHost _ s (substitute_behindHost ..)
  | dec x b => exact ifLegal_behindHost _ s (substitute_behindHost ..)
  | destroy => exact next_respond_behindHost (u := resetBlock s) rfl _

theorem performEvent_behindHost (e : HostEvent) (s : State) :
    performEvent e (behindHost ib ws s) = resultBehindHost ib ws (performEvent e s) := by
  cases e with
  | reset => rfl
  | word w =>
    simp only [performEvent, performWord]
    cases decode w with
    | none => exact next_raise_behindHost ..
    | some i => exact exec_behindHost i s

/-- A run answers the same whatever host stands before the block (R205, spec/70_reset_and_hazards.md R302). -/
theorem performEvents_behindHost {es : List HostEvent} (h : performEvents es s = .next t) :
    performEvents es (behindHost ib ws s) = .next (behindHost ib ws t) := by
  induction es generalizing s with
  | nil => cases h; rfl
  | cons e es ih =>
    obtain ⟨u, hu, h⟩ := performEvents_cons_next h
    have hu' : performEvent e (behindHost ib ws s) = .next (behindHost ib ws u) := by
      rw [performEvent_behindHost, hu]
      rfl
    exact (performEvents_cons hu').trans (ih h)

/-- A run from a state that meets the invariants never stops (spec/70_reset_and_hazards.md R318). -/
theorem performEvents_completes (h : StateInv s) (es : List HostEvent) : Completes (performEvents es s) := by
  induction es generalizing s with
  | nil => exact completes_next s
  | cons e es ih =>
    obtain ⟨u, hu⟩ := performEvent_completes h e
    rw [performEvents_cons hu]
    exact ih (performEvent_stateInv h hu)

end Destroy

/-- Settles O16: DESTROY leaves the reset state behind a host that was given one response more, and a run does not
depend on the host. -/
theorem destroyGivesResetState : Obligations.DestroyGivesResetState := by
  refine ⟨by decide, fun s => ⟨rfl, rfl, fun es => ?_⟩⟩
  have hdestroy : exec .destroy s =
      .next (behindHost s.inbox (s.responses ++ [0x00000000#32]) State.reset) := by
    rw [behindHost, State.reset, List.append_nil]
    rfl
  obtain ⟨v, hv⟩ := performEvents_completes stateInv_reset es
  exact ⟨_, _, v, hdestroy, performEvents_behindHost hv, hv, newResponses_behindHost ..⟩

/-! ### The commands of `new` -/

section New

variable {s t : State} {i : Instr} {is : List Instr} {bs : List Byte} {n : Half}

/-- `s` after `k` responses of OK with data 0. -/
def acknowledged (k : Nat) (s : State) : State :=
  { s with responses := s.responses ++ List.replicate k 0x00000000#32 }

theorem acknowledged_responses (k : Nat) (s : State) :
    (acknowledged k s).responses = s.responses ++ List.replicate k 0x00000000#32 := rfl

theorem acknowledged_acknowledged (j k : Nat) (s : State) :
    acknowledged j (acknowledged k s) = acknowledged (k + j) s := by
  simp only [acknowledged, List.append_assoc, List.replicate_append_replicate]

/-- A run that begins with a command answering OK. -/
theorem performEvents_wordEvents_cons (hw : i.wf = true) (h : exec i s = .next (respond 0#16 t)) :
    performEvents (wordEvents (i :: is)) s = performEvents (wordEvents is) (acknowledged 1 t) :=
  performEvents_cons ((performEvent_encode hw s).trans h)

/-- Loading a string that fits: one SEEDB a byte, each answering OK (R201, spec/30_encoding.md R100). -/
theorem performEvents_seedbs (h : s.seed.length + bs.length ≤ Config.seedMax) :
    performEvents (wordEvents (bs.map .seedb ++ is)) s =
      performEvents (wordEvents is) (acknowledged bs.length { s with seed := s.seed ++ bs }) := by
  induction bs generalizing s with
  | nil => simp [acknowledged]
  | cons b bs ih =>
    rw [List.length_cons] at h
    have hroom : s.seed.length ≠ Config.seedMax := by omega
    have hrest : (s.seed ++ [b]).length + bs.length ≤ Config.seedMax := by rw [List.length_append, List.length_singleton]; omega
    calc performEvents (wordEvents (.seedb b :: (bs.map .seedb ++ is))) s
      _ = performEvents (wordEvents (bs.map .seedb ++ is)) (acknowledged 1 (seedAppend s b)) :=
        performEvents_wordEvents_cons rfl (exec_seedb_of_room hroom b)
      _ = performEvents (wordEvents is)
          (acknowledged bs.length (acknowledged 1 { s with seed := s.seed ++ [b] ++ bs })) := ih hrest
      _ = _ := by rw [acknowledged_acknowledged, List.append_assoc, Nat.add_comm]; rfl

/-- The two parameter writes and INIT, with a seed loaded (R204, spec/41_pad_generator.md R147). -/
theorem performEvents_parameters (hp : s.phase = .empty) (hs : s.seed ≠ []) (hn : n ≠ 0#16) :
    performEvents (wordEvents [.wrcsr .numpads n, .wrcsr .qubits (immOfByte 8#8), .init]) s =
      .next (acknowledged 3 (buildContext { s with numPads := n, qubits := 8#8 })) := by
  calc performEvents (wordEvents [.wrcsr .numpads n, .wrcsr .qubits (immOfByte 8#8), .init]) s
    _ = performEvents (wordEvents [.wrcsr .qubits (immOfByte 8#8), .init]) (acknowledged 1 { s with numPads := n }) :=
      performEvents_wordEvents_cons rfl (exec_wrcsr_of_empty hp rfl)
    _ = performEvents (wordEvents [.init])
        (acknowledged 1 (acknowledged 1 { s with numPads := n, qubits := 8#8 })) :=
      performEvents_wordEvents_cons rfl (exec_wrcsr_of_empty hp rfl)
    _ = .next (acknowledged 1 (acknowledged 1 (acknowledged 1
          (buildContext { s with numPads := n, qubits := 8#8 })))) :=
      performEvents_wordEvents_cons rfl (exec_init_of_configured hp hs hn rfl)
    _ = _ := by rw [acknowledged_acknowledged, acknowledged_acknowledged]

/-- R206: every command of `new` answers OK, and the context of its operands is built. -/
theorem performEvents_new (hp : s.phase = .empty) (hbs : bs ≠ []) (hl : bs.length ≤ Config.seedMax) (hn : n ≠ 0#16) :
    performEvents (wordEvents (expandPseudo (.new n 8#8 bs))) s =
      .next (acknowledged (bs.length + 4) (buildContext { s with seed := bs, numPads := n, qubits := 8#8 })) := by
  have hfits : (acknowledged 1 (seedClear s)).seed.length + bs.length ≤ Config.seedMax := by
    simpa [acknowledged] using hl
  rw [expandPseudo, List.append_assoc]
  calc performEvents (wordEvents (.seedclr :: (bs.map .seedb ++ _))) s
    _ = performEvents (wordEvents _) (acknowledged bs.length (acknowledged 1 { s with seed := bs })) :=
      (performEvents_wordEvents_cons rfl rfl).trans (performEvents_seedbs hfits)
    _ = .next (acknowledged 3 (acknowledged bs.length (acknowledged 1
          (buildContext { s with seed := bs, numPads := n, qubits := 8#8 })))) := performEvents_parameters hp hbs hn
    _ = _ := by rw [acknowledged_acknowledged, acknowledged_acknowledged, Nat.add_comm 1]

end New

/-- Settles O41: the state is the built context with its OKs, whose tables and registers are those of
`buildContext`. -/
theorem newSequenceBuildsContext : Obligations.NewSequenceBuildsContext := by
  intro s n bs _ hp hbs hl hn
  refine ⟨_, performEvents_new hp hbs hl hn, rfl, rfl, rfl, rfl,
    newResponses_eq_of_responses (acknowledged_responses ..), fun p x hlt => ⟨?_, ?_⟩, rfl, rfl⟩
  · exact padByte_buildContext_fwd hlt x
  · exact padByte_buildContext_inv hlt x

end Sys2Proof.Proofs
end

section
/-! PROOFS of the statements of spec/60_exceptions.md: the one response of a word and the frame of a fault, and the
faults of each command. -/

namespace Sys2Proof.Proofs

open Sys2Proof.Machine

/-! ### The response of a word -/

/-- Bits 27:16 of a response word are zero (spec/30_encoding.md R97). -/
theorem responseWord_reserved (c : BitVec 4) (d : Half) : (responseWord c d).extractLsb' 16 12 = 0#12 := by
  rw [responseWord, BitVec.extractLsb'_append_eq_of_le (by decide)]
  exact BitVec.extractLsb'_append_eq_right

/-- Settles O47: a fault sets ERR and returns its word, and the response of an effect has code 0. -/
theorem faultChangesOnlyErr : Obligations.FaultChangesOnlyErr := by
  intro w s t h
  obtain ⟨f, n, rfl⟩ | ⟨i, u, d, -, he, rfl⟩ := performWord_raises_or_responds h
  · refine ⟨responseWord (faultNumber f) n, raise_responses .., responseWord_reserved .., ?_, fun _ => ?_⟩
    · rw [responseWord_code]
      exact faultNumber_le_six f
    · rw [responseWord_code]
      rfl
  · refine ⟨responseWord 0#4 d, by rw [respond_responses, okEffect_responses he], responseWord_reserved .., ?_,
      fun hc => absurd (responseWord_code 0#4 d) hc⟩
    rw [responseWord_code]
    decide

/-! ### The faults of each command -/

/-- Every response word with a code other than 0 that the outcome `a` adds to those of `s` satisfies `P`. -/
def FaultWords (s : State) (P : Word → Prop) (a : Result) : Prop :=
  ∀ t r, a = .next t → t.responses = s.responses ++ [r] → r.extractLsb' 28 4 ≠ 0#4 → P r

section FaultWords

variable {s u : State} {P : Word → Prop} {x : Sel}

/-! One rule per way a command ends. -/

theorem faultWords_next {w : Word} (hu : u.responses = s.responses ++ [w]) (hw : w.extractLsb' 28 4 ≠ 0#4 → P w) :
    FaultWords s P (.next u) := by
  intro t r ht hr hc
  cases ht
  obtain rfl : w = r := by simpa [hu] using hr
  exact hw hc

theorem faultWords_raise {f : FaultCode} {n : Half} (hP : P (responseWord (faultNumber f) n)) :
    FaultWords s P (.next (raise f n s)) :=
  faultWords_next (raise_responses ..) fun _ => hP

theorem faultWords_respond (hu : u.responses = s.responses) (d : Half) : FaultWords s P (.next (respond d u)) :=
  faultWords_next (by rw [respond_responses, hu]) fun hc => absurd (responseWord_code 0#4 d) hc

/-- Only an outcome with a next state adds a word. -/
theorem faultWords_of_next {a : Result} (h : ∀ t, a = .next t → FaultWords s P (.next t)) : FaultWords s P a :=
  fun t r ht => h t ht t r rfl

/-! The commands that can raise a fault (R269, spec/30_encoding.md R98). -/

theorem faultWords_seedb (b : Byte) (s : State) :
    FaultWords s (fun r => s.seed.length = Config.seedMax ∧ r = BitVec.ofNat 32 (0x50000000 + Config.seedMax))
      (exec (.seedb b) s) := by
  by_cases hl : s.seed.length = Config.seedMax
  · rw [exec_seedb_of_full hl]
    exact faultWords_raise ⟨hl, seedOverflow_word hl⟩
  · rw [exec_seedb_of_room hl]
    exact faultWords_respond rfl _

theorem faultWords_wrcsr {c : Csr} {n : Half} (hw : (Instr.wrcsr c n).wf = true) (s : State) :
    FaultWords s (fun r => s.phase = .active ∧ r = 0x40000001#32) (exec (.wrcsr c n) s) := by
  cases hp : s.phase with
  | empty =>
    rw [exec_wrcsr_of_empty hp hw]
    exact faultWords_respond (csrWrite_responses ..) _
  | active =>
    rw [exec_wrcsr_of_active hp hw]
    exact faultWords_next rfl fun _ => ⟨rfl, rfl⟩

theorem causeMask_ne_zero_iff : causeMask s ≠ 0#16 ↔ s.seed = [] ∨ s.numPads = 0#16 ∨ s.qubits = 0#8 := by
  rw [ne_eq, causeMask_eq_zero_iff]
  tauto

theorem faultWords_init (s : State) :
    FaultWords s (fun r =>
      (s.phase = .active ∧ r = 0x40000001#32) ∨
      (s.phase = .empty ∧ (s.seed = [] ∨ s.numPads = 0#16 ∨ s.qubits = 0#8) ∧
        r = BitVec.ofNat 32 (0x10000000 + (if s.seed = [] then 1 else 0) + (if s.numPads = 0#16 then 2 else 0)
          + (if s.qubits = 0#8 then 4 else 0))) ∨
      (s.phase = .empty ∧ s.seed ≠ [] ∧ s.numPads ≠ 0#16 ∧ s.qubits ≠ 0#8 ∧ s.qubits ≠ 8#8 ∧
        r = BitVec.ofNat 32 (0x20000000 + s.qubits.toNat)))
      (exec .init s) := by
  cases hp : s.phase with
  | active =>
    rw [exec_init_of_active hp]
    exact faultWords_raise (.inl ⟨rfl, stateError_word_of_active hp⟩)
  | empty =>
    by_cases hc : causeMask s = 0#16
    · obtain ⟨hz, hn, hs⟩ := causeMask_eq_zero_iff.mp hc
      by_cases hq : s.qubits = supportedWidth
      · rw [exec_init_of_configured hp hs hn hq]
        exact faultWords_respond (buildContext_responses ..) _
      · rw [exec_init_of_width hp hc hq]
        exact faultWords_raise (.inr (.inr ⟨rfl, hs, hn, hz, hq, unsupportedWidth_word _⟩))
    · rw [exec_init_of_cause hp hc]
      exact faultWords_raise (.inr (.inl ⟨rfl, causeMask_ne_zero_iff.mp hc, configurationError_word s⟩))

theorem faultWords_mksel (hw : (Instr.mksel x).wf = true) (s : State) :
    FaultWords s (fun r => s.seed = [] ∧ r = 0x10000001#32) (exec (.mksel x) s) := by
  have hx := mksel_wf_iff_external.mp hw
  by_cases hs : s.seed = []
  · rw [exec_mksel_of_empty hx hs]
    exact faultWords_raise ⟨hs, by decide⟩
  · rw [exec_mksel_of_seed hx hs]
    exact faultWords_respond (setSel_responses ..) _

/-- ENC and DEC raise the same two faults; a draw that has no next state returns no word. -/
theorem faultWords_cipherInstr {d : Dir} (hd : mayName d x = true) (b : Byte) (s : State) :
    FaultWords s (fun r =>
      (s.phase = .empty ∧ r = 0x40000000#32) ∨
      (s.phase = .active ∧ selValid s x = false ∧ r = BitVec.ofNat 32 (0x60000000 + (selNumber x).toNat)))
      (exec (cipherInstr d x b) s) := by
  rw [exec_cipherInstr hd]
  refine faultWords_of_next fun t ht => ?_
  obtain ⟨hp, rfl⟩ | ⟨hp, hx, rfl⟩ | ⟨st, c, -, -, -, -, rfl⟩ := substitute_next ht
  · exact faultWords_raise (.inl ⟨hp, stateError_word_of_empty hp⟩)
  · exact faultWords_raise (.inr ⟨hp, by rw [selValid, hx]; rfl, selectorInvalid_word x⟩)
  · exact faultWords_respond (setSel_responses ..) _

end FaultWords

/-- Settles O48: command by command, the words of the faults it can raise; the other four commands respond in every
state. -/
theorem faultsOfEachCommand : Obligations.FaultsOfEachCommand := by
  intro i s t r hw ht
  cases i with
  | nop => exact faultWords_respond (P := fun _ => False) rfl _ t r ht
  | seedb b => exact faultWords_seedb b s t r ht
  | seedclr => exact faultWords_respond (P := fun _ => False) (seedClear_responses ..) _ t r ht
  | rdcsr c => exact faultWords_respond (P := fun _ => False) rfl _ t r ((exec_rdcsr c s).symm.trans ht)
  | wrcsr c n => exact faultWords_wrcsr hw s t r ht
  | init => exact faultWords_init s t r ht
  | mksel x => exact faultWords_mksel hw s t r ht
  | enc x b => exact faultWords_cipherInstr (d := .fwd) hw b s t r ht
  | dec x b => exact faultWords_cipherInstr (d := .inv) hw b s t r ht
  | destroy => exact faultWords_respond (P := fun _ => False) (resetBlock_responses ..) _ t r ht

end Sys2Proof.Proofs
end

section
/-! PROOFS of the statements of spec/70_reset_and_hazards.md: the step by what the host presents, runs that complete
with one response for each word, and the phase machine. -/

namespace Sys2Proof.Proofs

open Sys2Proof.Machine

/-! ### The responses of a run -/

section RunResponses

variable {e : HostEvent} {es : List HostEvent} {s t : State}

/-- A reset has no response (R300), and a word has exactly one (R318, spec/30_encoding.md R97). -/
theorem performEvent_responses_length (h : performEvent e s = .next t) :
    t.responses.length = s.responses.length + if e = .reset then 0 else 1 := by
  cases e with
  | reset => cases h; rfl
  | word w =>
    obtain ⟨r, hr, -⟩ := faultChangesOnlyErr w s t h
    rw [hr, List.length_append, if_neg nofun, List.length_singleton]

theorem performEvents_responses_length (h : performEvents es s = .next t) :
    t.responses.length = s.responses.length + (es.filter fun e => e != .reset).length := by
  induction es generalizing s with
  | nil => cases h; rfl
  | cons e es ih =>
    obtain ⟨u, hu, h⟩ := performEvents_cons_next h
    rw [ih h, performEvent_responses_length hu]
    cases e with
    | reset => rfl
    | word w => exact Nat.add_right_comm _ 1 _

theorem newResponses_length (s t : State) :
    (newResponses s t).length = t.responses.length - s.responses.length := List.length_drop

theorem performEvents_stateInv (h : StateInv s) (ht : performEvents es s = .next t) : StateInv t := by
  induction es generalizing s with
  | nil => cases ht; exact h
  | cons e es ih =>
    obtain ⟨u, hu, ht⟩ := performEvents_cons_next ht
    exact ih (performEvent_stateInv h hu) ht

end RunResponses

/-- Settles O55: the run completes, and what its end satisfies follows event by event. -/
theorem runsCompleteWithOneResponsePerWord : Obligations.RunsCompleteWithOneResponsePerWord := by
  intro es s h
  obtain ⟨t, ht⟩ := performEvents_completes h es
  refine ⟨t, ht, performEvents_stateInv h ht, ?_, performEvents_responses_isPrefix ht⟩
  rw [newResponses_length, performEvents_responses_length ht, Nat.add_sub_cancel_left]

/-! ### The phase machine -/

section Phase

variable {w : Word} {i : Instr} {s t u : State} {d : Half}

theorem performWord_of_decode (h : decode w = some i) (s : State) : performWord w s = exec i s := by
  simp only [performWord, h]

/-- The effects that move PHASE are those of INIT and DESTROY (R305). -/
theorem okEffect_phase (he : OkEffect i s u d) (hd : i ≠ .destroy) (hi : i ≠ .init) : u.phase = s.phase := by
  cases he with
  | destroy => exact absurd rfl hd
  | init => exact absurd rfl hi
  | _ => simp

/-- From EMPTY, INIT activates the block with the response OK, or leaves it EMPTY with a fault's code. -/
theorem exec_init_active_iff_ok (hp : s.phase = .empty) (h : exec .init s = .next t) :
    t.phase = .active ↔ t.responses = s.responses ++ [0x00000000#32] := by
  obtain ⟨f, n, rfl⟩ | ⟨u, d, he, rfl⟩ := exec_next h
  · have hcode : responseWord (faultNumber f) n ≠ 0x00000000#32 := fun hw =>
      faultNumber_ne_zero f ((responseWord_code _ n).symm.trans (by rw [hw]; decide))
    simp [hp, hcode]
  · have hok : responseWord 0#4 0#16 = 0x00000000#32 := by decide
    cases he
    simp [hok]

end Phase

/-- Settles O50: INIT by the phase it finds; every other word but DESTROY raises a fault or has an effect that leaves
PHASE. -/
theorem phaseMachine : Obligations.PhaseMachine := by
  intro e s t h
  cases e with
  | reset => cases h; rfl
  | word w =>
    have hexec {i : Instr} (hi : decode w = some i) : exec i s = .next t := (performWord_of_decode hi s).symm.trans h
    refine ⟨fun hd => ?_, fun hi hp => ?_, fun hi hp => exec_init_active_iff_ok hp (hexec hi), fun hd hi => ?_⟩
    · rw [performWord_of_destroy hd h]
      rfl
    · obtain rfl : raise .stateError (phaseInfo s) s = t := by simpa [exec_init_of_active hp] using hexec hi
      exact hp
    · obtain ⟨f, n, rfl⟩ | ⟨i, u, d, hdec, he, rfl⟩ := performWord_raises_or_responds h
      · rfl
      · rw [respond_phase]
        exact okEffect_phase he (fun hi' => hd (hi' ▸ hdec)) (fun hi' => hi (hi' ▸ hdec))

/-! ### The step, by what the host presents -/

section PortStep

variable {e : HostEvent} {rest : List HostEvent} {s : State}

theorem step_of_inbox_nil (h : s.inbox = []) : step s = .next s := by
  simp only [step, portStep, h]

theorem step_of_inbox_cons (h : s.inbox = e :: rest) : step s = performEvent e { s with inbox := rest } := by
  simp only [step, portStep, h]

end PortStep

/-- Settles O54: waiting has its next state, and so has the event taken, since what the host presents is no part of
the invariants. -/
theorem stepNeverStops : Obligations.StepNeverStops := by
  intro s h
  cases hin : s.inbox with
  | nil => exact ⟨s, step_of_inbox_nil hin⟩
  | cons e rest =>
    have hrest : StateInv { s with inbox := rest } := stateInv_frame h h.err_range rfl
    rw [step_of_inbox_cons hin]
    exact performEvent_completes hrest e

/-- Settles O8: the event taken is the reset, which keeps only the host's two lists. -/
theorem resetEventGivesResetState : Obligations.ResetEventGivesResetState := by
  intro s rest
  rw [step_of_inbox_cons rfl]
  rfl

/-- Settles O9. -/
theorem idleStepKeepsState : Obligations.IdleStepKeepsState :=
  fun _ => step_of_inbox_nil

end Sys2Proof.Proofs
end

section
/-! PROOFS of the statement of spec/95_test_vectors.md section 2: the encoding vectors, read backwards. -/

namespace Sys2Proof.Proofs

open Sys2Proof.Machine

/-- A word that a command assembles to decodes to that command: a vector "syntax, word" read from right to left. -/
theorem decode_of_encode_eq {w : Word} {i : Instr} (hwf : i.wf = true) (hw : encode i = w) : decode w = some i :=
  hw ▸ decodeEncodeRoundTrip i hwf

/-- Settles O6: each word is the one its command assembles to, as the vectors give it, so the round trip gives back the
command. -/
theorem specWordsDecode : Obligations.SpecWordsDecode := by
  unfold Obligations.SpecWordsDecode
  and_intros <;> exact decode_of_encode_eq rfl (by decide)

end Sys2Proof.Proofs
end
